-- ==== Sys2Proof/Word.lean ====
section
/-! DEFINITION. The word types of the block and nothing else: a byte, a 32-bit bus word, a 16-bit length
and the 30-bit accumulator (00_scope.md R8, R11). -/

namespace Sys2Proof

/-- A byte (00_scope.md R11). A 5-bit value ("symbol") is held in a byte, as in IN_BUF and OUT_BUF. -/
abbrev Byte := BitVec 8

/-- A 32-bit bus word: a register's value, a command word (00_scope.md R8). -/
abbrev Word := BitVec 32

/-- The value of a length register, 16 bits (00_scope.md R8). -/
abbrev Len := BitVec 16

/-- The polymod accumulator and the checksum value, 30 significant bits (00_scope.md R8, 90_conflicts.md C1). -/
abbrev Acc := BitVec 30

end Sys2Proof
end

