-- ==== Sys2Proof/Config.lean ====
section
/-! DEFINITION. What an implementation of the block fixes (00_scope.md R8), the values this hardware takes,
and the free values of the spec (93_implementation_defined.md U1 to U3), which are opaque: no proof can see
what they are. -/

namespace Sys2Proof

/-- The implementation parameters of 00_scope.md R8. They are plain data held in the state and no step writes
them, so a statement about every state quantifies over them. LATENCY has no field: no rule depends on it. -/
structure Params where
  /-- IBUF_SIZE: bytes in IN_BUF. -/
  ibufSize : Nat
  /-- OBUF_SIZE: bytes in OUT_BUF. -/
  obufSize : Nat
  /-- HAS_B58: the Base58 sub-unit is present. -/
  hasB58 : Bool
  /-- HAS_ECMUL: the secp256k1 sub-unit is present. -/
  hasEcmul : Bool
  /-- BASE: the bus address of register offset 0. -/
  base : Nat
  deriving DecidableEq, Repr

/-- The values this hardware takes (00_scope.md R8, last column). BASE is OPEN in the spec, "any 0x1000-aligned
address the platform gives": 0 is a DESIGN CHOICE of the model (log entry 3). -/
def Config.thisHardware : Params :=
  { ibufSize := 256, obufSize := 256, hasB58 := true, hasEcmul := true, base := 0 }

/-- The free byte number `i` of draw `d`: an unspecified byte of a buffer (93_implementation_defined.md U1, U3).
`d` is the draw that filled the buffer (power-on, or an abandoned command), `i` the byte's index. Log entry 1. -/
opaque Config.freeByte (d i : Nat) : Byte

/-- The free word of draw `d`: what a bus read returns where the spec admits any 32-bit value
(93_implementation_defined.md U2, 20_memory.md R64), a fresh draw at each read. Log entry 2. -/
opaque Config.freeWord (d : Nat) : Word

end Sys2Proof
end

