-- ==== Sys2Proof/Syntax.lean ====
section
/-! DEFINITION. The block's instructions: the sixteen commands of 30_encoding.md R92, one constructor per row of
the opcode table. -/

namespace Sys2Proof

/-- A command (30_encoding.md R92). Only POLY_STEP carries an operand in its word, the immediate (R91); the
operands of every other command are the length registers, CHK and the regions H and D of IN_BUF. -/
inductive Instr where
  /-- NOP, 44_control.md R240. -/
  | nop
  /-- POLY_INIT, 40_checksum_codec.md R127. -/
  | polyInit
  /-- POLY_STEP with its immediate, 40_checksum_codec.md R128. -/
  | polyStep (imm : Byte)
  /-- POLY_HRP, 40_checksum_codec.md R129. -/
  | polyHrp
  /-- POLY_DATA, 40_checksum_codec.md R130. -/
  | polyData
  /-- EXPAND, 40_checksum_codec.md R131. -/
  | expand
  /-- CREATE_CHECKSUM, 40_checksum_codec.md R132. -/
  | createChecksum
  /-- CHARSET_MAP, 40_checksum_codec.md R133. -/
  | charsetMap
  /-- REPACK_8TO5, 41_bech32_framing.md R162. -/
  | repack8to5
  /-- REPACK_5TO8, 41_bech32_framing.md R163. -/
  | repack5to8
  /-- B32_ENCODE, 41_bech32_framing.md R165. -/
  | b32Encode
  /-- SEGWIT_ENCODE, 41_bech32_framing.md R166. -/
  | segwitEncode
  /-- B58_ENCODE, 42_base58.md R192. -/
  | b58Encode
  /-- B58_DECODE, 42_base58.md R194. -/
  | b58Decode
  /-- EC_PUBKEY, 43_secp256k1.md R213. -/
  | ecPubkey
  /-- ZEROIZE, 44_control.md R241. -/
  | zeroize
  deriving DecidableEq, Repr

end Sys2Proof
end

