-- ==== Sys2Proof/WellFormed.lean ====
section
/-! DEFINITION. Which parameters are legal (00_scope.md R8) and which commands a block with given parameters
implements (30_encoding.md R92, column "present when"). -/

namespace Sys2Proof

/-- A buffer size is legal: a multiple of 4 from 64 to 4096 (00_scope.md R8). -/
def legalBufSize (n : Nat) : Bool := n % 4 == 0 && decide (64 ≤ n) && decide (n ≤ 4096)

/-- The parameters are legal (00_scope.md R8): both buffer sizes are, and BASE is 0x1000-aligned. -/
def Params.legal (p : Params) : Bool :=
  legalBufSize p.ibufSize && legalBufSize p.obufSize && p.base % 0x1000 == 0

/-- A command is well-formed on a block with parameters `p`: its option is present (30_encoding.md R92, R93).
Every immediate of POLY_STEP is legal, so no other check exists. -/
def Instr.wf (p : Params) : Instr → Bool
  | .nop => true
  | .polyInit => true
  | .polyStep _ => true
  | .polyHrp => true
  | .polyData => true
  | .expand => true
  | .createChecksum => true
  | .charsetMap => true
  | .repack8to5 => true
  | .repack5to8 => true
  | .b32Encode => true
  | .segwitEncode => true
  | .b58Encode => p.hasB58
  | .b58Decode => p.hasB58
  | .ecPubkey => p.hasEcmul
  | .zeroize => true

end Sys2Proof
end

