-- ==== Sys2Proof/Decode.lean ====
section
/-! DEFINITION. The decoder of a command word, total and rejecting by name (30_encoding.md R90 to R96), and after
it the encoder (R101). -/

namespace Sys2Proof

/-- Why a command word is rejected (30_encoding.md R93, R94). A rejected word is still accepted by CMD; its
rejection is the error its completion reports. -/
inductive DecodeError where
  /-- OP is not in the table of R92, or its option is absent (R93). -/
  | illegalOp
  /-- RSVD is nonzero, or IMM8 is nonzero for a command other than POLY_STEP (R94). -/
  | reservedField
  deriving DecidableEq, Repr

/-- Field OP, bits 7:0 of a command word (30_encoding.md R90). -/
def cmdOp (w : Word) : Byte := w.extractLsb' 0 8

/-- Field IMM8, bits 15:8 of a command word (30_encoding.md R90, R91). -/
def cmdImm (w : Word) : Byte := w.extractLsb' 8 8

/-- Field RSVD, bits 31:16 of a command word (30_encoding.md R90). -/
def cmdRsvd (w : Word) : BitVec 16 := w.extractLsb' 16 16

/-- The opcode map of 30_encoding.md R92, with the immediate of POLY_STEP; every other OP is undefined (R93). -/
def decodeOp (op imm : Byte) : Option Instr :=
  match op.toNat with
  | 0x00 => some .nop
  | 0x01 => some .polyInit
  | 0x02 => some (.polyStep imm)
  | 0x03 => some .polyHrp
  | 0x04 => some .polyData
  | 0x05 => some .expand
  | 0x06 => some .createChecksum
  | 0x07 => some .charsetMap
  | 0x08 => some .repack8to5
  | 0x09 => some .repack5to8
  | 0x0A => some .b32Encode
  | 0x0B => some .segwitEncode
  | 0x10 => some .b58Encode
  | 0x11 => some .b58Decode
  | 0x20 => some .ecPubkey
  | 0x30 => some .zeroize
  | _ => none

/-- The reserved part of a word is nonzero (30_encoding.md R94): RSVD, or IMM8 where OP is not POLY_STEP. -/
def reservedNonzero (w : Word) : Bool :=
  cmdRsvd w != 0 || (cmdOp w != 0x02 && cmdImm w != 0)

/-- The decode checks of 30_encoding.md R96, in its order: illegal OP (undefined, or of an absent option), then
reserved fields. -/
def decode (p : Params) (w : Word) : Except DecodeError Instr :=
  match decodeOp (cmdOp w) (cmdImm w) with
  | none => .error .illegalOp
  | some i =>
    if !i.wf p then .error .illegalOp
    else if reservedNonzero w then .error .reservedField
    else .ok i

/-- The opcode of a command (30_encoding.md R92). -/
def opcode : Instr → Byte
  | .nop => 0x00
  | .polyInit => 0x01
  | .polyStep _ => 0x02
  | .polyHrp => 0x03
  | .polyData => 0x04
  | .expand => 0x05
  | .createChecksum => 0x06
  | .charsetMap => 0x07
  | .repack8to5 => 0x08
  | .repack5to8 => 0x09
  | .b32Encode => 0x0A
  | .segwitEncode => 0x0B
  | .b58Encode => 0x10
  | .b58Decode => 0x11
  | .ecPubkey => 0x20
  | .zeroize => 0x30

/-- The immediate of a command: POLY_STEP's operand, 0 for every other (30_encoding.md R94). -/
def immediate : Instr → Byte
  | .polyStep imm => imm
  | .nop => 0
  | .polyInit => 0
  | .polyHrp => 0
  | .polyData => 0
  | .expand => 0
  | .createChecksum => 0
  | .charsetMap => 0
  | .repack8to5 => 0
  | .repack5to8 => 0
  | .b32Encode => 0
  | .segwitEncode => 0
  | .b58Encode => 0
  | .b58Decode => 0
  | .ecPubkey => 0
  | .zeroize => 0

/-- The command word of a command (30_encoding.md R101): RSVD = 0, IMM8, OP. -/
def encode (i : Instr) : Word := (0 : BitVec 16) ++ immediate i ++ opcode i

/-- The mnemonic of a command (30_encoding.md R92, R101). -/
def mnemonic : Instr → String
  | .nop => "NOP"
  | .polyInit => "POLY_INIT"
  | .polyStep _ => "POLY_STEP"
  | .polyHrp => "POLY_HRP"
  | .polyData => "POLY_DATA"
  | .expand => "EXPAND"
  | .createChecksum => "CREATE_CHECKSUM"
  | .charsetMap => "CHARSET_MAP"
  | .repack8to5 => "REPACK_8TO5"
  | .repack5to8 => "REPACK_5TO8"
  | .b32Encode => "B32_ENCODE"
  | .segwitEncode => "SEGWIT_ENCODE"
  | .b58Encode => "B58_ENCODE"
  | .b58Decode => "B58_DECODE"
  | .ecPubkey => "EC_PUBKEY"
  | .zeroize => "ZEROIZE"

/-- The command this hardware's decoder reads from the word whose low `nbits` bits are `w`'s, the bits above them
0. There is one format, one 32-bit word (30_encoding.md R90), so bit `k` of `w` is bit `k` of the word. -/
def decodeTableWord (nbits w : Nat) : Option Instr :=
  match decode Config.thisHardware (BitVec.ofNat 32 (w % 2 ^ nbits)) with
  | .ok i => some i
  | .error _ => none

end Sys2Proof
end

