-- ==== Sys2Proof/Machine/State.lean ====
section
/-! DEFINITION. The state of the machine, all of it plain data: the block's registers, buffers and hidden state
(10_state.md R20, R36, R40), its bus port, its parameters, and the host agent (00_scope.md R18) with the
order in which the agents move. Also the ways a step can stop, and the state after reset. -/

namespace Sys2Proof.Machine

/-- The error a command completes with (60_exceptions.md R260). None stops the machine: STATUS records it. -/
inductive CmdError where
  /-- Code 1: OP not defined, or its option absent. -/
  | illegalOp
  /-- Code 2: RSVD nonzero, or IMM8 nonzero outside POLY_STEP. -/
  | reservedField
  /-- Code 3: HRP_LEN + SRC_LEN > IBUF_SIZE, or SRC_LEN not 32 for EC_PUBKEY. -/
  | inLength
  /-- Code 4: a value of 32 or more where a 5-bit value is required, or a byte outside the Base58 alphabet. -/
  | badSymbol
  /-- Code 5: the scalar is 0 or not below the curve order. -/
  | invalidPrivateKey
  /-- Code 6: the result is longer than OBUF_SIZE. -/
  | outLength
  deriving DecidableEq, Repr

/-- The record `Exec` returns on success (30_encoding.md R96). A field a command's rule does not set is absent. -/
structure Result where
  /-- `r.out`: the bytes for OUT_BUF. -/
  out : Option (List Byte) := none
  /-- `r.chk`: the value for CHK. -/
  chk : Option Acc := none
  /-- `r.cksum`: the value for CKSUM. -/
  cksum : Option Acc := none
  /-- `r.zeroize`: true only for ZEROIZE. -/
  zeroize : Bool := false
  deriving DecidableEq, Repr

/-- A byte buffer (10_state.md R34, R35): the bytes written so far, by rising index, no index twice. A byte that
is not listed is unspecified: it reads as the free byte of its index under the draw `fill` (log entry 1). So
no listed entry can be known to equal what an unlisted index reads as, and the form is canonical. -/
structure Memory where
  /-- The written bytes. -/
  cells : List Host.Cell
  /-- The draw that gives the bytes not listed. -/
  fill : Nat
  deriving DecidableEq, Repr

/-- The stored fields of STATUS (10_state.md R27). BUSY is not among them: it is `State.pending` (R36). -/
structure Status where
  /-- DONE, bit 1. -/
  done : Bool
  /-- ERR, bit 2. -/
  err : Bool
  /-- OVR, bit 3. -/
  ovr : Bool
  /-- ERRCODE, bits 11:8. -/
  errcode : BitVec 4
  /-- LASTOP, bits 23:16. -/
  lastop : Byte
  deriving DecidableEq, Repr

/-- The direction of a bus transaction, with a write's data (10_state.md R39). -/
inductive BusDir where
  /-- A read. -/
  | read
  /-- A write of the given word. -/
  | write (v : Word)
  deriving DecidableEq, Repr

/-- The response of the last transaction at the bus port (10_state.md R39). The ERROR response does not appear:
it is a fault of the host's step (20_memory.md R63). -/
inductive BusResponse where
  /-- OKAY, with the read data for a read (20_memory.md R63, R64). -/
  | okay (data : Option Word)
  /-- The access lay outside the window and did not reach the block (20_memory.md R68); for a read, `data` is what
  the platform answered (log entry 8). -/
  | elsewhere (data : Option Word)
  deriving DecidableEq, Repr

/-- A value in a host program (30_encoding.md R102): a literal, a bound name, or what the pseudo-instructions of
R103 compute from names. Names are numbers. R102 gives values no grammar: these five forms are the model's DESIGN CHOICE
(log entry 16). -/
inductive Expr where
  /-- A literal word. -/
  | lit (v : Word)
  /-- The word bound to a name. -/
  | name (n : Nat)
  /-- Bits `hi` down to `lo`, as `s[hi:lo]` (00_scope.md R10). -/
  | bits (e : Expr) (hi lo : Nat)
  /-- Shift left by `k` bits within the word, as in LOAD's expansion. -/
  | shl (e : Expr) (k : Nat)
  /-- Bitwise or. -/
  | or (a b : Expr)
  deriving DecidableEq, Repr

/-- A condition of `IF` or `EXPECT` in a host program (30_encoding.md R102). R102 gives conditions no grammar: these five
forms are the model's DESIGN CHOICE (log entry 16; the IRQ line: log entry 14). -/
inductive Cond where
  /-- Always false, as `EXPECT false`. -/
  | never
  /-- Two values are equal. -/
  | eq (a b : Expr)
  /-- The IRQ line is high (10_state.md R38). -/
  | irq
  /-- Negation. -/
  | not (c : Cond)
  /-- Conjunction. -/
  | and (c d : Cond)
  deriving DecidableEq, Repr

/-- A statement of a host program (30_encoding.md R102). `wr` and `rd` carry the bus address and the width in
bytes; the statements of R102 all have width 4, and any other width is what 20_memory.md R62 refuses. -/
inductive Stmt where
  /-- `WR`: a bus write. -/
  | wr (addr width : Nat) (v : Expr)
  /-- `RD`: a bus read that binds a name. -/
  | rd (addr width : Nat) (n : Nat)
  /-- A label. -/
  | label (l : Nat)
  /-- `IF c GOTO l`. -/
  | ifGoto (c : Cond) (l : Nat)
  /-- `EXPECT c`. -/
  | expect (c : Cond)
  deriving DecidableEq, Repr

/-- The host agent (00_scope.md R18): its program, the position of its next statement, its bound names. -/
structure HostAgent where
  /-- The host program. -/
  prog : List Stmt
  /-- Index of the next statement. -/
  pos : Nat
  /-- The bound names, latest first. -/
  names : List (Nat × Word)
  /-- An EXPECT of the program has failed; the program goes on (log entry 7). -/
  expectFailed : Bool
  deriving DecidableEq, Repr

/-- Who moves in a step (00_scope.md R18, 60_exceptions.md R267). -/
inductive Turn where
  /-- The host performs its next statement. -/
  | host
  /-- The engine completes the pending command, if one is pending. -/
  | engine
  /-- The reset input is asserted and released (70_reset_and_hazards.md R300). -/
  | powerOn
  deriving DecidableEq, Repr

/-- The state of the machine. INVENTORY.md, State, names the rule and the reset value of each field. -/
structure State where
  /-- The implementation parameters, never written; CAPS and BUFSZ show them (10_state.md R24, R25). -/
  params : Params
  /-- CTRL.IRQ_EN (10_state.md R26). -/
  irqEn : Bool
  /-- The stored fields of STATUS (10_state.md R27). -/
  status : Status
  /-- HRP_LEN (10_state.md R29). -/
  hrpLen : Len
  /-- SRC_LEN (10_state.md R30). -/
  srcLen : Len
  /-- DST_LEN (10_state.md R31). -/
  dstLen : Len
  /-- CHK, bits 29:0; bits 31:30 are always 0 (10_state.md R32). -/
  chk : Acc
  /-- CKSUM, bits 29:0; bits 31:30 are always 0 (10_state.md R33). -/
  cksum : Acc
  /-- IN_BUF (10_state.md R34). -/
  inBuf : Memory
  /-- OUT_BUF (10_state.md R35). -/
  outBuf : Memory
  /-- A command is accepted and not completed; STATUS.BUSY shows it (10_state.md R36). -/
  pending : Bool
  /-- The latched command word (10_state.md R36). -/
  cmd : Word
  /-- The response of the last bus transaction (10_state.md R39). -/
  resp : Option BusResponse
  /-- How many free values have been drawn; the next draw has this number (log entries 1, 2). -/
  draws : Nat
  /-- The host agent (00_scope.md R18). -/
  host : HostAgent
  /-- The order of the coming moves; when it is used up the engine moves while a command is pending, else the host
  (log entry 5). -/
  turns : List Turn
  deriving DecidableEq, Repr

/-- Why a step stops for good. All of them are faults of the host's step: no command of the block stops the
machine. -/
inductive Fault where
  /-- Raised by a bus access in the window whose width is not 4 bytes: the ERROR response, "a host model treats an
  ERROR response as a fault of the host's step" (20_memory.md R62, R63). Safe: the block's state is unchanged
  and the model says nothing of what the host does next. -/
  | busErrorWidth
  /-- Raised by a 4-byte bus access in the window at a misaligned address: the ERROR response (20_memory.md R62,
  R63). Safe, as `busErrorWidth`. -/
  | busErrorAlign
  /-- Raised by a host statement that uses a name nothing has bound; R102 speaks of "previously bound names" only
  (30_encoding.md). Safe (log entry 7). -/
  | hostUnboundName
  /-- Raised by a host GOTO to a label its program does not hold (30_encoding.md R102). Safe (log entry 7). -/
  | hostNoLabel
  deriving DecidableEq, Repr

/-- Why an instruction has no meaning. -/
inductive Refusal where
  /-- Raised by an arm of `exec` whose instruction is not modelled yet; no arm is left so. Safe. -/
  | notModelled (mnemonic : String)
  deriving DecidableEq, Repr

/-- The machine right after power-on reset (10_state.md R40, 70_reset_and_hazards.md R300), the host with no
program (log entry 4). -/
def State.reset : State where
  params := Config.thisHardware
  irqEn := false
  status := { done := false, err := false, ovr := false, errcode := 0, lastop := 0 }
  hrpLen := 0
  srcLen := 0
  dstLen := 0
  chk := 1
  cksum := 0
  inBuf := { cells := [], fill := 0 }
  outBuf := { cells := [], fill := 1 }
  pending := false
  cmd := 0
  resp := none
  draws := 2
  host := { prog := [], pos := 0, names := [], expectFailed := false }
  turns := []

end Sys2Proof.Machine
end

