-- ==== Sys2Proof/Machine/Flags.lean ====
section
/-! DEFINITION. STATUS and the IRQ line: the word STATUS reads as, what acceptance, completion, a dropped write and
a host write do to its fields (10_state.md R27, R38; 30_encoding.md R97, R99; 60_exceptions.md R260, R262). -/

namespace Sys2Proof.Machine

/-- The code of an error (60_exceptions.md R260). -/
def CmdError.code : CmdError → BitVec 4
  | .illegalOp => 1
  | .reservedField => 2
  | .inLength => 3
  | .badSymbol => 4
  | .invalidPrivateKey => 5
  | .outLength => 6

/-- The word STATUS reads as (10_state.md R27), BUSY given. -/
def Status.toWord (st : Status) (busy : Bool) : Word :=
  (0 : BitVec 8) ++ st.lastop ++ (0 : BitVec 4) ++ st.errcode ++ (0 : BitVec 4) ++
    BitVec.ofBool st.ovr ++ BitVec.ofBool st.err ++ BitVec.ofBool st.done ++ BitVec.ofBool busy

/-- STATUS at the acceptance of the command word `w` (30_encoding.md R97): DONE, ERR and ERRCODE cleared, LASTOP
the opcode, OVR unchanged. -/
def Status.accepted (st : Status) (w : Word) : Status :=
  { st with done := false, err := false, errcode := 0, lastop := w.extractLsb' 0 8 }

/-- STATUS at a completion (30_encoding.md R99): DONE set. -/
def Status.completed (st : Status) : Status := { st with done := true }

/-- STATUS records an error (30_encoding.md R99, 60_exceptions.md R262): ERR set, ERRCODE the code. -/
def Status.recordError (st : Status) (e : CmdError) : Status := { st with err := true, errcode := e.code }

/-- STATUS records a dropped write (70_reset_and_hazards.md R310): OVR set. -/
def Status.overrun (st : Status) : Status := { st with ovr := true }

/-- STATUS after a host write of `v` (20_memory.md R65): a 1 in bit 1 clears DONE, in bit 2 ERR and ERRCODE, in
bit 3 OVR. -/
def Status.w1c (st : Status) (v : Word) : Status :=
  { st with
    done := st.done && !v.getLsbD 1
    err := st.err && !v.getLsbD 2
    ovr := st.ovr && !v.getLsbD 3
    errcode := if v.getLsbD 2 then 0 else st.errcode }

/-- STATUS after either reset (10_state.md R40). -/
def Status.cleared : Status := { done := false, err := false, ovr := false, errcode := 0, lastop := 0 }

/-- The IRQ output, level-sensitive and active high (10_state.md R38). -/
def State.irq (s : State) : Bool := s.irqEn && (s.status.done || s.status.ovr)

end Sys2Proof.Machine
end

