-- ==== Sys2Proof/Machine/Ops.lean ====
section
/-! DEFINITION. The shared operations: the buffers and their byte lanes, the registers as words, the life of a
command (acceptance, error, commit, completion) and the two resets. -/

namespace Sys2Proof.Machine

/-! ### Byte lanes (20_memory.md R60) -/

/-- The bus word of four buffer bytes, the lowest index in bits 7:0. -/
def leWord (b0 b1 b2 b3 : Byte) : Word := b3 ++ b2 ++ b1 ++ b0

/-- The four bytes of a bus word, bits 7:0 first. -/
def leBytes (v : Word) : List Byte :=
  [v.extractLsb' 0 8, v.extractLsb' 8 8, v.extractLsb' 16 8, v.extractLsb' 24 8]

/-! ### Buffers (10_state.md R34, R35) -/

/-- The cells of the bytes `bs` from index `i` on. -/
def cellsFrom (i : Nat) : List Byte → List Host.Cell
  | [] => []
  | b :: bs => (i, b) :: cellsFrom (i + 1) bs

/-- The byte at index `i`: the one written there, else the free byte of the buffer's draw (log entry 1). -/
def Memory.byte (m : Memory) (i : Nat) : Byte := (m.cells.lookup i).getD (Config.freeByte m.fill i)

/-- The `n` bytes from index `i` on. -/
def Memory.bytes (m : Memory) (i n : Nat) : List Byte := (List.range n).map (fun k => m.byte (i + k))

/-- Write the bytes `bs` from index `i` on; every other byte stays. -/
def Memory.writeRun (m : Memory) (i : Nat) (bs : List Byte) : Memory :=
  { m with
    cells := m.cells.filter (fun c => decide (c.1 < i)) ++ cellsFrom i bs ++
      m.cells.filter (fun c => decide (i + bs.length ≤ c.1)) }

/-- A buffer of which every byte is unspecified, under the draw `d`. -/
def Memory.unspecified (d : Nat) : Memory := { cells := [], fill := d }

/-- Write the `n` bytes of the buffer to zero. -/
def Memory.zeros (m : Memory) (n : Nat) : Memory := { m with cells := cellsFrom 0 (List.replicate n 0) }

/-- The indexes rise strictly. -/
def risingCells : List Host.Cell → Bool
  | [] => true
  | [_] => true
  | c :: d :: cs => decide (c.1 < d.1) && risingCells (d :: cs)

/-- The canonical form of a buffer of `n` bytes: indexes rise strictly and lie below `n`. -/
def Memory.wf (m : Memory) (n : Nat) : Bool := risingCells m.cells && m.cells.all (fun c => decide (c.1 < n))

/-- The word of the buffer's bytes `j` to `j+3`, `LEword` of 20_memory.md R64. -/
def Memory.leWordAt (m : Memory) (j : Nat) : Word :=
  leWord (m.byte j) (m.byte (j + 1)) (m.byte (j + 2)) (m.byte (j + 3))

/-! ### Registers as words (10_state.md R22 to R33) -/

/-- ID: the constant 0x42433332 (10_state.md R23). -/
def idWord : Word := 0x42433332

/-- CAPS: HAS_B58 in bit 0, HAS_ECMUL in bit 1 (10_state.md R24). -/
def State.capsWord (s : State) : Word :=
  (0 : BitVec 30) ++ BitVec.ofBool s.params.hasEcmul ++ BitVec.ofBool s.params.hasB58

/-- BUFSZ: IBUF_SIZE in bits 15:0, OBUF_SIZE in bits 31:16 (10_state.md R25). -/
def State.bufszWord (s : State) : Word :=
  BitVec.ofNat 16 s.params.obufSize ++ BitVec.ofNat 16 s.params.ibufSize

/-- CTRL: IRQ_EN in bit 0; SRST reads 0 (10_state.md R26). -/
def State.ctrlWord (s : State) : Word := (BitVec.ofBool s.irqEn).setWidth 32

/-- STATUS (10_state.md R27), BUSY being `pending` (R36). -/
def State.statusWord (s : State) : Word := s.status.toWord s.pending

/-! ### The life of a command (30_encoding.md R97 to R99) -/

/-- `Accept(w)` (30_encoding.md R97): the word is latched and the command becomes pending. -/
def State.accept (s : State) (w : Word) : State :=
  { s with cmd := w, pending := true, status := s.status.accepted w }

/-- The error completion, the block's one exception entry (60_exceptions.md R262, R268): ERR and ERRCODE record
the error, DONE is set and BUSY cleared, and nothing else is written. -/
def State.completeError (s : State) (e : CmdError) : State :=
  { s with status := (s.status.recordError e).completed, pending := false }

/-- The return from an error: the host's W1C write of STATUS (60_exceptions.md R269, 20_memory.md R65). -/
def State.writeStatus (s : State) (v : Word) : State := { s with status := s.status.w1c v }

/-- `ZeroizeEffects()` (44_control.md R241). -/
def State.zeroizeEffects (s : State) : State :=
  { s with
    inBuf := s.inBuf.zeros s.params.ibufSize
    outBuf := s.outBuf.zeros s.params.obufSize
    hrpLen := 0, srcLen := 0, dstLen := 0, chk := 1, cksum := 0 }

/-- Write a result to OUT_BUF and its length to DST_LEN (30_encoding.md R98). -/
def State.writeOut (s : State) (out : List Byte) : State :=
  { s with outBuf := s.outBuf.writeRun 0 out, dstLen := BitVec.ofNat 16 out.length }

/-- The fields of a successful result take effect, in the order of 30_encoding.md R99; an absent field leaves its
register. -/
def State.commit (s : State) (r : Result) : State :=
  let s := if r.zeroize then s.zeroizeEffects else s
  let s := match r.out with
    | some out => s.writeOut out
    | none => s
  { s with chk := r.chk.getD s.chk, cksum := r.cksum.getD s.cksum }

/-- A result whose output is longer than OBUF_SIZE is the error OUT_LENGTH (30_encoding.md R98, R99). -/
def fitOutput (p : Params) : Except CmdError Result → Except CmdError Result
  | .error e => .error e
  | .ok r => if p.obufSize < (r.out.getD []).length then .error .outLength else .ok r

/-- The effect of `Complete()` given the result of the command's rule (30_encoding.md R99). -/
def State.complete (s : State) (res : Except CmdError Result) : State :=
  match fitOutput s.params res with
  | .error e => s.completeError e
  | .ok r => { s.commit r with status := s.status.completed, pending := false }

/-! ### Resets (70_reset_and_hazards.md R300, R301) -/

/-- The registers at the table of 10_state.md R40, the buffers as they are. -/
def State.resetRegisters (s : State) : State :=
  { s with
    pending := false, cmd := 0, irqEn := false, status := Status.cleared
    hrpLen := 0, srcLen := 0, dstLen := 0, chk := 1, cksum := 0 }

/-- A command is abandoned by a soft reset (70_reset_and_hazards.md R301): OUT_BUF becomes unspecified, and IN_BUF
too where the word's OP is ZEROIZE's. Each buffer takes a draw of its own. -/
def State.abandon (s : State) : State :=
  { s with
    outBuf := Memory.unspecified s.draws
    inBuf := if s.cmd.extractLsb' 0 8 = 0x30 then Memory.unspecified (s.draws + 1) else s.inBuf
    draws := s.draws + 2 }

/-- `SoftReset()` (70_reset_and_hazards.md R301). -/
def State.softReset (s : State) : State :=
  if s.pending then s.abandon.resetRegisters else s.resetRegisters

/-- Power-on reset of the block (70_reset_and_hazards.md R300): the registers at their table, both buffers
unspecified, no transaction at the port. The parameters and the host agent are not the block's to reset. -/
def State.powerOn (s : State) : State :=
  { s.resetRegisters with
    inBuf := Memory.unspecified s.draws
    outBuf := Memory.unspecified (s.draws + 1)
    draws := s.draws + 2
    resp := none }

end Sys2Proof.Machine
end

