-- ==== Sys2Proof/Machine/Operands.lean ====
section
/-! DEFINITION. The operands of the commands: the regions H and D of IN_BUF (00_scope.md R13), the length check
every command that reads IN_BUF makes (30_encoding.md R95), the check of 5-bit values, and a region read as a
big-endian number. -/

namespace Sys2Proof.Machine

/-- Region H: IN_BUF[0 .. HRP_LEN) (00_scope.md R13). -/
def State.regionH (s : State) : List Byte := s.inBuf.bytes 0 s.hrpLen.toNat

/-- Region D: IN_BUF[HRP_LEN .. HRP_LEN + SRC_LEN) (00_scope.md R13). -/
def State.regionD (s : State) : List Byte := s.inBuf.bytes s.hrpLen.toNat s.srcLen.toNat

/-- Both regions lie inside IN_BUF (30_encoding.md R95). -/
def State.regionsFit (s : State) : Bool := decide (s.hrpLen.toNat + s.srcLen.toNat ≤ s.params.ibufSize)

/-- The rule of a command that reads IN_BUF: IN_LENGTH where the regions do not fit, else the rule's body on H and
D (30_encoding.md R95, R96). -/
def State.withRegions (s : State) (body : List Byte → List Byte → Except CmdError Result) : Except CmdError Result :=
  if s.regionsFit then body s.regionH s.regionD else .error .inLength

/-- The rule of a command that is present only on some blocks: ILLEGAL_OP where it is absent (30_encoding.md
R93). -/
def whenPresent (present : Bool) (body : Except CmdError Result) : Except CmdError Result :=
  if present then body else .error .illegalOp

/-- Every value of the region is a 5-bit value (00_scope.md R11). -/
def allSymbols (d : List Byte) : Bool := d.all (fun b => decide (b.toNat < 32))

/-- The rule of a command that requires 5-bit values: BAD_SYMBOL if any value is 32 or more, checked over the whole
region first (40_checksum_codec.md R133). -/
def whenSymbols (d : List Byte) (body : Except CmdError Result) : Except CmdError Result :=
  if allSymbols d then body else .error .badSymbol

/-- A byte sequence read as a number, the first byte most significant (20_memory.md R75). -/
def beNat (b : List Byte) : Nat := b.foldl (fun n x => n * 256 + x.toNat) 0

/-- The digits of `n` in the given base, most significant first and no leading 0, in front of `acc`; at most
`fuel` digits. -/
def digitsBE (base : Nat) : Nat → Nat → List Nat → List Nat
  | 0, _, acc => acc
  | fuel + 1, n, acc => if n = 0 then acc else digitsBE base fuel (n / base) (n % base :: acc)

/-- `n` written as `len` bytes, the first most significant. -/
def beBytes (len n : Nat) : List Byte := (List.range len).map (fun i => BitVec.ofNat 8 (n / 256 ^ (len - 1 - i)))

end Sys2Proof.Machine
end

