-- ==== Sys2Proof/Machine/Base58.lean ====
section
/-! DEFINITION. The Base58 radix codec (42_base58.md): the alphabet (R190), the encoder (R191), the decoder (R193)
and the meanings of the two commands (R192, R194). -/

namespace Sys2Proof.Machine

/-- ALPHA, the Base58 alphabet as ASCII bytes (42_base58.md R190): digits 0-8, 9-16, 17-21, 22-32, 33-43, 44-57. -/
def alpha : List Byte :=
  [0x31, 0x32, 0x33, 0x34, 0x35, 0x36, 0x37, 0x38, 0x39] ++
  [0x41, 0x42, 0x43, 0x44, 0x45, 0x46, 0x47, 0x48] ++
  [0x4A, 0x4B, 0x4C, 0x4D, 0x4E] ++
  [0x50, 0x51, 0x52, 0x53, 0x54, 0x55, 0x56, 0x57, 0x58, 0x59, 0x5A] ++
  [0x61, 0x62, 0x63, 0x64, 0x65, 0x66, 0x67, 0x68, 0x69, 0x6A, 0x6B] ++
  [0x6D, 0x6E, 0x6F, 0x70, 0x71, 0x72, 0x73, 0x74, 0x75, 0x76, 0x77, 0x78, 0x79, 0x7A]

/-- ALPHA[d] for a digit below 58 (42_base58.md R190). -/
def alphaByte (d : Nat) : Byte := alpha.getD d 0

/-- `idx`: the digit of a character, `alpha.length` for one outside the alphabet (42_base58.md R193). -/
def alphaIndex (c : Byte) : Nat := alpha.idxOf c

/-- How many leading elements of `b` equal `x`. -/
def leadingCount (x : Byte) (b : List Byte) : Nat := (b.takeWhile (fun y => y == x)).length

/-- `b58enc` (42_base58.md R191). A byte gives fewer than two base-58 digits, so twice the length bounds their
number. -/
def b58enc (b : List Byte) : List Byte :=
  List.replicate (leadingCount 0x00 b) 0x31 ++ (digitsBE 58 (2 * b.length) (beNat b) []).map alphaByte

/-- The number a character sequence denotes in base 58, the first digit most significant (42_base58.md R193). -/
def b58Nat (s : List Byte) : Nat := s.foldl (fun n c => n * 58 + alphaIndex c) 0

/-- Every character is in the alphabet (42_base58.md R193). -/
def allAlpha (s : List Byte) : Bool := s.all (fun c => alpha.contains c)

/-- The bytes `b58dec` gives for characters that are all in the alphabet (42_base58.md R193): the explicit zeros,
then the minimal big-endian bytes. A base-58 digit gives less than one byte, so the length bounds their number. -/
def b58dec (s : List Byte) : List Byte :=
  List.replicate (leadingCount 0x31 s) 0x00 ++ (digitsBE 256 s.length (b58Nat s) []).map (fun n => BitVec.ofNat 8 n)

/-! ### The commands -/

/-- The rule of B58_ENCODE (42_base58.md R192). -/
def ruleB58Encode (s : State) : Except CmdError Result :=
  whenPresent s.params.hasB58 (s.withRegions (fun _ d => .ok { out := some (b58enc d) }))

/-- The rule of B58_DECODE (42_base58.md R194): BAD_SYMBOL where a character is outside the alphabet, checked over
the whole region first. -/
def ruleB58Decode (s : State) : Except CmdError Result :=
  whenPresent s.params.hasB58
    (s.withRegions (fun _ d => if allAlpha d then .ok { out := some (b58dec d) } else .error .badSymbol))

/-- B58_ENCODE. -/
def execB58Encode (s : State) : Host.Outcome State Fault Refusal := .next (s.complete (ruleB58Encode s))

/-- B58_DECODE. -/
def execB58Decode (s : State) : Host.Outcome State Fault Refusal := .next (s.complete (ruleB58Decode s))

end Sys2Proof.Machine
end

