-- ==== Sys2Proof/Machine/Control.lean ====
section
/-! DEFINITION. The control commands (44_control.md): NOP (R240) and ZEROIZE (R241). -/

namespace Sys2Proof.Machine

/-- The rule of NOP (44_control.md R240): success with every field absent. -/
def ruleNop (_ : State) : Except CmdError Result := .ok {}

/-- The rule of ZEROIZE (44_control.md R241). -/
def ruleZeroize (_ : State) : Except CmdError Result := .ok { zeroize := true }

/-- NOP. -/
def execNop (s : State) : Host.Outcome State Fault Refusal := .next (s.complete (ruleNop s))

/-- ZEROIZE. -/
def execZeroize (s : State) : Host.Outcome State Fault Refusal := .next (s.complete (ruleZeroize s))

end Sys2Proof.Machine
end

