-- ==== Sys2Proof/Machine/Checksum.lean ====
section
/-! DEFINITION. The checksum codec (40_checksum_codec.md): its constants and pure functions (R120 to R126) and the
meanings of its seven commands (R127 to R133). -/

namespace Sys2Proof.Machine

/-- The generator constants (40_checksum_codec.md R120). -/
def genConst : Nat → Acc
  | 0 => 0x3b6a57b2
  | 1 => 0x26508e6d
  | 2 => 0x1ea119fa
  | 3 => 0x3d4233dd
  | 4 => 0x2a1462b3
  | _ => 0

/-- The generator `i` where bit `i` of `b` is set, else 0: what one turn of the loop of R121 mixes in. -/
def genTerm (b : BitVec 5) (i : Nat) : Acc := if b.getLsbD i then genConst i else 0

/-- One step of the polymod (40_checksum_codec.md R121): the top five bits c[29:25] are shifted out, the value is
mixed in, and each generator selected by a shifted-out bit. -/
def polystep (c : Acc) (v : Byte) : Acc :=
  let b : BitVec 5 := c.extractLsb' 25 5
  (List.range 5).foldl (fun c' i => c' ^^^ genTerm b i) ((c <<< 5) ^^^ v.setWidth 30)

/-- The polymod continued from `c` (40_checksum_codec.md R122). -/
def polymodFrom (c : Acc) (vs : List Byte) : Acc := vs.foldl polystep c

/-- The polymod of a sequence, from 1 (40_checksum_codec.md R122). -/
def polymod (vs : List Byte) : Acc := polymodFrom 1 vs

/-- The high three bits of a character, b >> 5 (40_checksum_codec.md R123). -/
def highBits (b : Byte) : Byte := b >>> 5

/-- The low five bits of a character, b & 31 (40_checksum_codec.md R123). -/
def lowBits (b : Byte) : Byte := b &&& 31

/-- The expansion of a human-readable part: the high three bits, a zero, the low five bits (40_checksum_codec.md
R123). -/
def expandHrp (h : List Byte) : List Byte := h.map highBits ++ [0] ++ h.map lowBits

/-- The raw polymod of H and D with six zero values after them (40_checksum_codec.md R124, R132). -/
def rawChecksum (h d : List Byte) : Acc := polymod (expandHrp h ++ d ++ List.replicate 6 0)

/-- The checksum value (40_checksum_codec.md R124). -/
def checksum30 (h d : List Byte) : Acc := rawChecksum h d ^^^ 1

/-- The six symbols of a 30-bit value, most significant first (40_checksum_codec.md R125). -/
def groups6 (x : Acc) : List Byte := (List.range 6).map (fun i => (x.extractLsb' (5 * (5 - i)) 5).setWidth 8)

/-- CHARSET, the Bech32 alphabet as ASCII bytes (40_checksum_codec.md R126). -/
def charset : List Byte :=
  [0x71, 0x70, 0x7a, 0x72, 0x79, 0x39, 0x78, 0x38, 0x67, 0x66, 0x32, 0x74, 0x76, 0x64, 0x77, 0x30] ++
  [0x73, 0x33, 0x6a, 0x6e, 0x35, 0x34, 0x6b, 0x68, 0x63, 0x65, 0x36, 0x6d, 0x75, 0x61, 0x37, 0x6c]

/-- CHARSET[v] for a 5-bit value (40_checksum_codec.md R126); every use is on values below 32. -/
def charsetByte (v : Byte) : Byte := charset.getD v.toNat 0

/-- The result fields of a whole-checksum command from its raw polymod: CHK, CKSUM and the output
(40_checksum_codec.md R132). -/
def checksumResult (raw : Acc) (out : List Byte) : Result :=
  { out := some out, chk := some raw, cksum := some (raw ^^^ 1) }

/-! ### The commands -/

/-- The rule of POLY_INIT (40_checksum_codec.md R127). -/
def rulePolyInit (_ : State) : Except CmdError Result := .ok { chk := some 1 }

/-- The rule of POLY_STEP (40_checksum_codec.md R128). -/
def rulePolyStep (imm : Byte) (s : State) : Except CmdError Result := .ok { chk := some (polystep s.chk imm) }

/-- The rule of POLY_HRP (40_checksum_codec.md R129). -/
def rulePolyHrp (s : State) : Except CmdError Result :=
  s.withRegions (fun h _ => .ok { chk := some (polymodFrom s.chk (expandHrp h)) })

/-- The rule of POLY_DATA (40_checksum_codec.md R130). -/
def rulePolyData (s : State) : Except CmdError Result :=
  s.withRegions (fun _ d => .ok { chk := some (polymodFrom s.chk d) })

/-- The rule of EXPAND (40_checksum_codec.md R131). -/
def ruleExpand (s : State) : Except CmdError Result :=
  s.withRegions (fun h _ => .ok { out := some (expandHrp h) })

/-- The rule of CREATE_CHECKSUM (40_checksum_codec.md R132). -/
def ruleCreateChecksum (s : State) : Except CmdError Result :=
  s.withRegions (fun h d => .ok (checksumResult (rawChecksum h d) (groups6 (checksum30 h d))))

/-- The rule of CHARSET_MAP (40_checksum_codec.md R133). -/
def ruleCharsetMap (s : State) : Except CmdError Result :=
  s.withRegions (fun _ d => whenSymbols d (.ok { out := some (d.map charsetByte) }))

/-- POLY_INIT. -/
def execPolyInit (s : State) : Host.Outcome State Fault Refusal := .next (s.complete (rulePolyInit s))

/-- POLY_STEP. -/
def execPolyStep (imm : Byte) (s : State) : Host.Outcome State Fault Refusal := .next (s.complete (rulePolyStep imm s))

/-- POLY_HRP. -/
def execPolyHrp (s : State) : Host.Outcome State Fault Refusal := .next (s.complete (rulePolyHrp s))

/-- POLY_DATA. -/
def execPolyData (s : State) : Host.Outcome State Fault Refusal := .next (s.complete (rulePolyData s))

/-- EXPAND. -/
def execExpand (s : State) : Host.Outcome State Fault Refusal := .next (s.complete (ruleExpand s))

/-- CREATE_CHECKSUM. -/
def execCreateChecksum (s : State) : Host.Outcome State Fault Refusal := .next (s.complete (ruleCreateChecksum s))

/-- CHARSET_MAP. -/
def execCharsetMap (s : State) : Host.Outcome State Fault Refusal := .next (s.complete (ruleCharsetMap s))

end Sys2Proof.Machine
end

