-- ==== Sys2Proof/Machine/Framing.lean ====
section
/-! DEFINITION. Bech32 framing (41_bech32_framing.md): the re-packing of bit groups (R160, R161), the address (R164)
and the meanings of the four commands (R162, R163, R165, R166). -/

namespace Sys2Proof.Machine

/-- The inner `while bits >= w` loop of 41_bech32_framing.md R160 and R161: the groups of `w` bits taken off the top
of the `bits` unread bits of `acc`, and how many bits stay unread. `fuel` bounds the turns. -/
def emitGroups (w acc : Nat) : Nat → Nat → List Byte × Nat
  | 0, bits => ([], bits)
  | fuel + 1, bits =>
    if w ≤ bits then
      let r := emitGroups w acc fuel (bits - w)
      (BitVec.ofNat 8 ((acc >>> (bits - w)) % 2 ^ w) :: r.1, r.2)
    else ([], bits)

/-- The outer loop of 41_bech32_framing.md R160 and R161, from groups of `inW` bits to groups of `outW` bits: the
groups produced, the accumulator and the number of unread bits. -/
def repackLoop (inW outW : Nat) : List Byte → Nat → Nat → List Byte × Nat × Nat
  | [], acc, bits => ([], acc, bits)
  | x :: xs, acc, bits =>
    let acc' := (acc <<< inW) ||| x.toNat
    let e := emitGroups outW acc' (bits + inW) (bits + inW)
    let r := repackLoop inW outW xs acc' e.2
    (e.1 ++ r.1, r.2)

/-- `repack85`: bytes to 5-bit values, most significant bit first, the last group zero-padded on the right
(41_bech32_framing.md R160). -/
def repack85 (b : List Byte) : List Byte :=
  let r := repackLoop 8 5 b 0 0
  if 0 < r.2.2 then r.1 ++ [BitVec.ofNat 8 ((r.2.1 <<< (5 - r.2.2)) % 2 ^ 5)] else r.1

/-- `repack58`: 5-bit values to bytes, most significant bit first, the last bits (fewer than 8) discarded
(41_bech32_framing.md R161). -/
def repack58 (v : List Byte) : List Byte := (repackLoop 5 8 v 0 0).1

/-- `address(h, vals)`: the human-readable part, the separator, and the values with their checksum through CHARSET
(41_bech32_framing.md R164). -/
def address (h vals : List Byte) : List Byte :=
  h ++ [0x31] ++ (vals ++ groups6 (checksum30 h vals)).map charsetByte

/-- The result of framing `vals` under `h`: CHK, CKSUM and the address (41_bech32_framing.md R165). -/
def frameResult (h vals : List Byte) : Result := checksumResult (rawChecksum h vals) (address h vals)

/-! ### The commands -/

/-- The rule of REPACK_8TO5 (41_bech32_framing.md R162). -/
def ruleRepack8to5 (s : State) : Except CmdError Result :=
  s.withRegions (fun _ d => .ok { out := some (repack85 d) })

/-- The rule of REPACK_5TO8 (41_bech32_framing.md R163). -/
def ruleRepack5to8 (s : State) : Except CmdError Result :=
  s.withRegions (fun _ d => whenSymbols d (.ok { out := some (repack58 d) }))

/-- The rule of B32_ENCODE (41_bech32_framing.md R165). -/
def ruleB32Encode (s : State) : Except CmdError Result :=
  s.withRegions (fun h d => whenSymbols d (.ok (frameResult h d)))

/-- The rule of SEGWIT_ENCODE (41_bech32_framing.md R166): witness version 0 in front of the re-packed program. -/
def ruleSegwitEncode (s : State) : Except CmdError Result :=
  s.withRegions (fun h d => .ok (frameResult h (0 :: repack85 d)))

/-- REPACK_8TO5. -/
def execRepack8to5 (s : State) : Host.Outcome State Fault Refusal := .next (s.complete (ruleRepack8to5 s))

/-- REPACK_5TO8. -/
def execRepack5to8 (s : State) : Host.Outcome State Fault Refusal := .next (s.complete (ruleRepack5to8 s))

/-- B32_ENCODE. -/
def execB32Encode (s : State) : Host.Outcome State Fault Refusal := .next (s.complete (ruleB32Encode s))

/-- SEGWIT_ENCODE. -/
def execSegwitEncode (s : State) : Host.Outcome State Fault Refusal := .next (s.complete (ruleSegwitEncode s))

end Sys2Proof.Machine
end

