-- ==== Sys2Proof/Machine/Secp256k1.lean ====
section
/-! DEFINITION. The secp256k1 public-key unit (43_secp256k1.md): the curve (R210), the group law and the scalar
multiple (R211), the compressed form (R212), and the meaning of EC_PUBKEY (R213, R214). -/

namespace Sys2Proof.Machine

/-- The field prime p = 2^256 - 2^32 - 977 (43_secp256k1.md R210). -/
def fieldPrime : Nat := 0xFFFFFFFFFFFFFFFFFFFFFFFFFFFFFFFFFFFFFFFFFFFFFFFFFFFFFFFEFFFFFC2F

/-- The x coordinate of G (43_secp256k1.md R210). -/
def genX : Nat := 0x79BE667EF9DCBBAC55A06295CE870B07029BFCDB2DCE28D959F2815B16F81798

/-- The y coordinate of G (43_secp256k1.md R210). -/
def genY : Nat := 0x483ADA7726A3C4655DA4FBFC0E1108A8FD17B448A68554199C47D08FFB10D4B8

/-- The order n of G (43_secp256k1.md R210). -/
def curveOrder : Nat := 0xFFFFFFFFFFFFFFFFFFFFFFFFFFFFFFFEBAAEDCE6AF48A03BBFD25E8CD0364141

/-- A point: O, or an affine pair of numbers below p (43_secp256k1.md R211). -/
inductive Point where
  /-- The point at infinity. -/
  | infinity
  /-- The affine point (x, y). -/
  | affine (x y : Nat)
  deriving DecidableEq, Repr

/-- The generator G (43_secp256k1.md R210). -/
def pointG : Point := .affine genX genY

/-- A number is below p and the pair satisfies y^2 = x^3 + 7 mod p, or the point is O (43_secp256k1.md R210,
R211). -/
def Point.onCurve : Point → Bool
  | .infinity => true
  | .affine x y =>
    decide (x < fieldPrime) && decide (y < fieldPrime) && (y * y % fieldPrime == (x * x * x + 7) % fieldPrime)

/-- Subtraction mod p. -/
def fieldSub (a b : Nat) : Nat := (a + (fieldPrime - b % fieldPrime)) % fieldPrime

/-- `b ^ e` mod p by squaring, for an exponent of at most `fuel` bits. -/
def fieldPow : Nat → Nat → Nat → Nat
  | 0, _, _ => 1
  | fuel + 1, b, e =>
    if e = 0 then 1
    else if e % 2 = 1 then b * fieldPow fuel (b * b % fieldPrime) (e / 2) % fieldPrime
    else fieldPow fuel (b * b % fieldPrime) (e / 2)

/-- The inverse mod p of a number that p does not divide, as its power p - 2 (43_secp256k1.md R211: "division is
multiplication by the inverse mod p"). -/
def fieldInv (a : Nat) : Nat := fieldPow 256 a (fieldPrime - 2)

/-- The third point of the chord or tangent of slope `lam` through x1, y1 and x2 (43_secp256k1.md R211). -/
def chordPoint (lam x1 y1 x2 : Nat) : Point :=
  let x3 := fieldSub (fieldSub (lam * lam) x1) x2
  .affine x3 (fieldSub (lam * fieldSub x1 x3) y1)

/-- The group law (43_secp256k1.md R211). -/
def pointAdd : Point → Point → Point
  | .infinity, q => q
  | p, .infinity => p
  | .affine x1 y1, .affine x2 y2 =>
    if x1 = x2 ∧ (y1 + y2) % fieldPrime = 0 then .infinity
    else if x1 = x2 ∧ y1 = y2 then
      chordPoint (3 * x1 * x1 * fieldInv (2 * y1 % fieldPrime) % fieldPrime) x1 y1 x2
    else
      chordPoint (fieldSub y2 y1 * fieldInv (fieldSub x2 x1) % fieldPrime) x1 y1 x2

/-- k·P by its defining sum of k terms, 0·P = O (43_secp256k1.md R211). -/
def pointSmul : Nat → Point → Point
  | 0, _ => .infinity
  | k + 1, p => pointAdd (pointSmul k p) p

/-- k·P by doubling and adding, for a k of at most `fuel` bits; "the BCG may compute it by any algorithm"
(43_secp256k1.md R211). That it is `pointSmul` is an obligation. -/
def pointMul : Nat → Nat → Point → Point
  | 0, _, _ => .infinity
  | fuel + 1, k, p =>
    if k = 0 then .infinity
    else
      let half := pointMul fuel (k / 2) p
      let twice := pointAdd half half
      if k % 2 = 1 then pointAdd twice p else twice

/-- `compress` (43_secp256k1.md R212): the prefix by the parity of y, then x as 32 bytes. It is never used on O
(R214); there it gives no bytes. -/
def compress : Point → List Byte
  | .infinity => []
  | .affine x y => BitVec.ofNat 8 (2 + y % 2) :: beBytes 32 x

/-- A scalar is valid exactly when 1 <= k <= n - 1 (43_secp256k1.md R214). -/
def validScalar (k : Nat) : Bool := decide (1 ≤ k) && decide (k < curveOrder)

/-! ### The command -/

/-- The rule of EC_PUBKEY (43_secp256k1.md R213). -/
def ruleEcPubkey (s : State) : Except CmdError Result :=
  whenPresent s.params.hasEcmul (s.withRegions (fun _ d =>
    if d.length ≠ 32 then .error .inLength
    else if validScalar (beNat d) then .ok { out := some (compress (pointMul 256 (beNat d) pointG)) }
    else .error .invalidPrivateKey))

/-- EC_PUBKEY. -/
def execEcPubkey (s : State) : Host.Outcome State Fault Refusal := .next (s.complete (ruleEcPubkey s))

end Sys2Proof.Machine
end

