-- ==== Sys2Proof/Machine/Dispatch.lean ====
section
/-! DEFINITION. The meaning of each command: one arm per constructor, one call of its meaning. -/

namespace Sys2Proof.Machine

def exec (i : Instr) (s : State) : Host.Outcome State Fault Refusal :=
  match i with
  | .nop => Sys2Proof.Machine.execNop s
  | .polyInit => Sys2Proof.Machine.execPolyInit s
  | .polyStep imm => Sys2Proof.Machine.execPolyStep imm s
  | .polyHrp => Sys2Proof.Machine.execPolyHrp s
  | .polyData => Sys2Proof.Machine.execPolyData s
  | .expand => Sys2Proof.Machine.execExpand s
  | .createChecksum => Sys2Proof.Machine.execCreateChecksum s
  | .charsetMap => Sys2Proof.Machine.execCharsetMap s
  | .repack8to5 => Sys2Proof.Machine.execRepack8to5 s
  | .repack5to8 => Sys2Proof.Machine.execRepack5to8 s
  | .b32Encode => Sys2Proof.Machine.execB32Encode s
  | .segwitEncode => Sys2Proof.Machine.execSegwitEncode s
  | .b58Encode => Sys2Proof.Machine.execB58Encode s
  | .b58Decode => Sys2Proof.Machine.execB58Decode s
  | .ecPubkey => Sys2Proof.Machine.execEcPubkey s
  | .zeroize => Sys2Proof.Machine.execZeroize s

end Sys2Proof.Machine
end

