-- ==== Sys2Proof/Machine/Bus.lean ====
section
/-! DEFINITION. The slave port: what a bus access does to the block (20_memory.md R62 to R68). -/

namespace Sys2Proof.Machine

/-- Size of the window the block decodes (10_state.md R22, 20_memory.md R68). -/
def windowSize : Nat := 0x3000

/-- Offset of the IN_BUF window (10_state.md R22). -/
def inBufOffset : Nat := 0x1000

/-- Offset of the OUT_BUF window (10_state.md R22). -/
def outBufOffset : Nat := 0x2000

/-- The index into IN_BUF that a window offset names, none outside the window or at and beyond IBUF_SIZE
(10_state.md R34). -/
def State.inBufIndex (s : State) (o : Nat) : Option Nat :=
  if inBufOffset ≤ o ∧ o < outBufOffset ∧ o - inBufOffset < s.params.ibufSize then some (o - inBufOffset) else none

/-- The index into OUT_BUF that a window offset names, none outside the window or at and beyond OBUF_SIZE
(10_state.md R35). -/
def State.outBufIndex (s : State) (o : Nat) : Option Nat :=
  if outBufOffset ≤ o ∧ o < windowSize ∧ o - outBufOffset < s.params.obufSize then some (o - outBufOffset) else none

/-- The offset is one whose read returns any value while a command is pending: DST_LEN, CHK, CKSUM, or a byte of
OUT_BUF (20_memory.md R64, 70_reset_and_hazards.md R311). -/
def State.isResultOffset (s : State) (o : Nat) : Bool :=
  o == 0x020 || o == 0x024 || o == 0x028 || (s.outBufIndex o).isSome

/-- What a buffer window reads as at an offset outside the register page: a word of a buffer, else 0 (20_memory.md
R64). -/
def State.windowWord (s : State) (o : Nat) : Word :=
  match s.inBufIndex o with
  | some j => s.inBuf.leWordAt j
  | none =>
    match s.outBufIndex o with
    | some j => s.outBuf.leWordAt j
    | none => 0

/-- The word at an aligned offset of the window while its value is defined (20_memory.md R64): a register, a word
of a buffer, 0 for CMD and for every reserved offset. -/
def State.readWord (s : State) (o : Nat) : Word :=
  match o with
  | 0x000 => idWord
  | 0x004 => s.capsWord
  | 0x008 => s.bufszWord
  | 0x00C => s.ctrlWord
  | 0x010 => s.statusWord
  | 0x014 => 0
  | 0x018 => s.hrpLen.setWidth 32
  | 0x01C => s.srcLen.setWidth 32
  | 0x020 => s.dstLen.setWidth 32
  | 0x024 => s.chk.setWidth 32
  | 0x028 => s.cksum.setWidth 32
  | _ => s.windowWord o

/-- The next free word, with the draw counted (93_implementation_defined.md U2). -/
def State.drawWord (s : State) : Word × State := (Config.freeWord s.draws, { s with draws := s.draws + 1 })

/-- `MemRead(BASE + o, 4)` (20_memory.md R64). -/
def State.busRead (s : State) (o : Nat) : Word × State :=
  if s.pending && s.isResultOffset o then s.drawWord else (s.readWord o, s)

/-- A write that is dropped while a command is pending: it sets OVR and does nothing else (70_reset_and_hazards.md
R310); while idle it has the given effect. -/
def State.interlocked (s : State) (effect : State) : State :=
  if s.pending then { s with status := s.status.overrun } else effect

/-- A write of CTRL (20_memory.md R65): SRST performs the soft reset, else IRQ_EN is written. -/
def State.writeCtrl (s : State) (v : Word) : State :=
  if v.getLsbD 1 then s.softReset else { s with irqEn := v.getLsbD 0 }

/-- A write outside the register page (20_memory.md R65): four bytes of IN_BUF, else no effect. -/
def State.writeWindow (s : State) (o : Nat) (v : Word) : State :=
  match s.inBufIndex o with
  | some j => s.interlocked { s with inBuf := s.inBuf.writeRun j (leBytes v) }
  | none => s

/-- `MemWrite(BASE + o, 4, v)` (20_memory.md R65). Writes to read-only registers, to reserved offsets and to the
OUT_BUF window have no effect and never set OVR (10_state.md R41). -/
def State.busWrite (s : State) (o : Nat) (v : Word) : State :=
  match o with
  | 0x00C => s.writeCtrl v
  | 0x010 => s.writeStatus v
  | 0x014 => s.interlocked (s.accept v)
  | 0x018 => s.interlocked { s with hrpLen := v.setWidth 16 }
  | 0x01C => s.interlocked { s with srcLen := v.setWidth 16 }
  | 0x024 => s.interlocked { s with chk := v.setWidth 30 }
  | _ => s.writeWindow o v

/-- The address lies in the block's window (20_memory.md R68). -/
def State.inWindow (s : State) (addr : Nat) : Bool :=
  decide (s.params.base ≤ addr) && decide (addr < s.params.base + windowSize)

/-- An access outside the window does not reach the block (20_memory.md R68). What a read of the platform answers
there is not the block's: a free word (log entry 8). -/
def State.accessElsewhere (s : State) : BusDir → State
  | .write _ => { s with resp := some (.elsewhere none) }
  | .read => { s.drawWord.2 with resp := some (.elsewhere (some s.drawWord.1)) }

/-- An aligned 32-bit access at offset `o` of the window gets the OKAY response (20_memory.md R63). -/
def State.accessInside (s : State) (o : Nat) : BusDir → State
  | .write v => { s.busWrite o v with resp := some (.okay none) }
  | .read => { (s.busRead o).2 with resp := some (.okay (some (s.busRead o).1)) }

/-- One bus transaction, atomic (20_memory.md R67). In the window a width other than 4 bytes, or a misaligned
address, gets the ERROR response, a fault of the host's step (R62, R63). -/
def busTransact (s : State) (addr width : Nat) (dir : BusDir) : Host.Outcome State Fault Refusal :=
  if !s.inWindow addr then .next (s.accessElsewhere dir)
  else if width ≠ 4 then .fault .busErrorWidth
  else if (addr - s.params.base) % 4 ≠ 0 then .fault .busErrorAlign
  else .next (s.accessInside (addr - s.params.base) dir)

end Sys2Proof.Machine
end

