-- ==== Sys2Proof/Machine/HostProgram.lean ====
section
/-! DEFINITION. The host agent: its statements (30_encoding.md R102), the pseudo-instructions with their exact
expansions (R103), the canonical sequence for one command (R104), and what one host step does. -/

namespace Sys2Proof.Machine

/-! ### Values and conditions (30_encoding.md R102) -/

/-- The word bound to a name. -/
def lookupName (names : List (Nat × Word)) (n : Nat) : Option Word := names.lookup n

/-- Bind a name; a name bound before is bound anew. -/
def bindName (names : List (Nat × Word)) (n : Nat) (v : Word) : List (Nat × Word) :=
  (n, v) :: names.filter (fun p => p.1 != n)

/-- The value of an expression, none where it uses a name nothing has bound. -/
def Expr.eval (names : List (Nat × Word)) : Expr → Option Word
  | .lit v => some v
  | .name n => lookupName names n
  | .bits e hi lo => (e.eval names).map (fun v => BitVec.ofNat 32 ((v.toNat >>> lo) % 2 ^ (hi + 1 - lo)))
  | .shl e k => (e.eval names).map (fun v => BitVec.shiftLeft v k)
  | .or a b =>
    match a.eval names, b.eval names with
    | some v, some w => some (v ||| w)
    | _, _ => none

/-- The truth of a condition on the bound names and the IRQ line, none where it uses a name nothing has bound. -/
def Cond.eval (names : List (Nat × Word)) (irq : Bool) : Cond → Option Bool
  | .never => some false
  | .eq a b =>
    match a.eval names, b.eval names with
    | some v, some w => some (v == w)
    | _, _ => none
  | .irq => some irq
  | .not c => (c.eval names irq).map (fun t => !t)
  | .and c d =>
    match c.eval names irq, d.eval names irq with
    | some t, some u => some (t && u)
    | _, _ => none

/-- The position after the label `l`, counted from `i`, none where the program does not hold it. -/
def labelPos (l : Nat) (i : Nat) : List Stmt → Option Nat
  | [] => none
  | .label k :: rest => if k = l then some (i + 1) else labelPos l (i + 1) rest
  | .wr _ _ _ :: rest => labelPos l (i + 1) rest
  | .rd _ _ _ :: rest => labelPos l (i + 1) rest
  | .ifGoto _ _ :: rest => labelPos l (i + 1) rest
  | .expect _ :: rest => labelPos l (i + 1) rest

/-! ### Statements and pseudo-instructions (30_encoding.md R102, R103) -/

/-- The target of `WR` and `RD` (30_encoding.md R102). -/
inductive Target where
  /-- The ID register. -/
  | id
  /-- The CAPS register. -/
  | caps
  /-- The BUFSZ register. -/
  | bufsz
  /-- The CTRL register. -/
  | ctrl
  /-- The STATUS register. -/
  | status
  /-- The CMD register. -/
  | cmd
  /-- The HRP_LEN register. -/
  | hrpLen
  /-- The SRC_LEN register. -/
  | srcLen
  /-- The DST_LEN register. -/
  | dstLen
  /-- The CHK register. -/
  | chk
  /-- The CKSUM register. -/
  | cksum
  /-- `IN+<k>`. -/
  | inPlus (k : Nat)
  /-- `OUT+<k>`. -/
  | outPlus (k : Nat)
  deriving DecidableEq, Repr

/-- The offset of a target (10_state.md R22, 30_encoding.md R102). -/
def Target.offset : Target → Nat
  | .id => 0x000
  | .caps => 0x004
  | .bufsz => 0x008
  | .ctrl => 0x00C
  | .status => 0x010
  | .cmd => 0x014
  | .hrpLen => 0x018
  | .srcLen => 0x01C
  | .dstLen => 0x020
  | .chk => 0x024
  | .cksum => 0x028
  | .inPlus k => 0x1000 + k
  | .outPlus k => 0x2000 + k

/-- `WR <target>, <value>` on a block at BASE = `base`. -/
def stmtWR (base : Nat) (t : Target) (v : Expr) : Stmt := .wr (base + t.offset) 4 v

/-- `RD <target> -> <name>`. -/
def stmtRD (base : Nat) (t : Target) (n : Nat) : Stmt := .rd (base + t.offset) 4 n

/-- `CMD <command>`. -/
def pseudoCMD (base : Nat) (i : Instr) : List Stmt := [stmtWR base .cmd (.lit (encode i))]

/-- `WAIT -> s`, its label being number `l`. -/
def pseudoWAIT (base l s : Nat) : List Stmt :=
  [.label l, stmtRD base .status s, .ifGoto (.eq (.bits (.name s) 0 0) (.lit 1)) l]

/-- `SETLEN h, d`. -/
def pseudoSETLEN (base : Nat) (h d : Word) : List Stmt :=
  [stmtWR base .hrpLen (.lit h), stmtWR base .srcLen (.lit d)]

/-- The word of the bytes 4j to 4j+3 of a byte list, a byte beyond its end being 0. -/
def loadWord (bs : List Byte) (j : Nat) : Word :=
  leWord (bs.getD (4 * j) 0) (bs.getD (4 * j + 1) 0) (bs.getD (4 * j + 2) 0) (bs.getD (4 * j + 3) 0)

/-- `LOAD IN+k, [b0, ...]`; `LOAD IN+k, "text"` is the same of the text's bytes. -/
def pseudoLOAD (base k : Nat) (bs : List Byte) : List Stmt :=
  (List.range ((bs.length + 3) / 4)).map (fun j => stmtWR base (.inPlus (k + 4 * j)) (.lit (loadWord bs j)))

/-- The value LOAD writes for the bytes 4j to 4j+3 of a list of expressions, as R103 writes it with `|` and `<<`. -/
def loadExpr (bs : List Expr) (j : Nat) : Expr :=
  .or (bs.getD (4 * j) (.lit 0)) (.or (.shl (bs.getD (4 * j + 1) (.lit 0)) 8)
    (.or (.shl (bs.getD (4 * j + 2) (.lit 0)) 16) (.shl (bs.getD (4 * j + 3) (.lit 0)) 24)))

/-- `LOAD IN+k` of bytes that bound names hold, as program P3 of 95_test_vectors.md loads what READOUT gave. -/
def pseudoLOADExprs (base k : Nat) (bs : List Expr) : List Stmt :=
  (List.range ((bs.length + 3) / 4)).map (fun j => stmtWR base (.inPlus (k + 4 * j)) (loadExpr bs j))

/-- The reads of `READOUT n`, binding the words to the names `n0`, `n0 + 1`, ... -/
def pseudoREADOUT (base n n0 : Nat) : List Stmt :=
  (List.range ((n + 3) / 4)).map (fun j => stmtRD base (.outPlus (4 * j)) (n0 + j))

/-- The bytes of `READOUT n` from the words it has bound; a word not bound gives no byte. -/
def readoutBytes (names : List (Nat × Word)) (n n0 : Nat) : List Byte :=
  (List.range n).filterMap (fun i =>
    (lookupName names (n0 + i / 4)).map (fun w => w.extractLsb' (8 * (i % 4)) 8))

/-- Byte `i` of a READOUT into the names from `n0` on, as an expression on them. -/
def readoutExpr (n0 i : Nat) : Expr := .bits (.name (n0 + i / 4)) (8 * (i % 4) + 7) (8 * (i % 4))

/-- `CLR`. -/
def pseudoCLR (base : Nat) : List Stmt := [stmtWR base .status (.lit 0x0000000E)]

/-- The test of ERR and ERRCODE in the STATUS word of name `s` (30_encoding.md R104, step 5): with ERR = 1 and ERRCODE
= e it goes to the label `onError + e`, for each code of 60_exceptions.md R260; with ERR = 0 it falls through. R104 says
only that the two fields are tested: what follows a found error is the model's DESIGN CHOICE (log entry 15). -/
def testOutcome (s onError : Nat) : List Stmt :=
  [1, 2, 3, 4, 5, 6].map (fun e =>
    .ifGoto (.and (.eq (.bits (.name s) 2 2) (.lit 1)) (.eq (.bits (.name s) 11 8) (.lit (BitVec.ofNat 32 e))))
      (onError + e))

/-- The canonical sequence for one command (30_encoding.md R104): load, set the lengths, start, wait (label `l`,
STATUS to name `s`), test ERR and ERRCODE, read DST_LEN to name `n` and `len` result bytes to the names from `n + 1`,
clear. On an error `e` it leaves for the label `onError + e`, which the rest of the host's program holds, without the last
three steps (DESIGN CHOICE, log entry 15). -/
def canonicalSequence (base : Nat) (bs : List Byte) (h d : Word) (i : Instr) (l s onError n len : Nat) : List Stmt :=
  pseudoLOAD base 0 bs ++ pseudoSETLEN base h d ++ pseudoCMD base i ++ pseudoWAIT base l s ++
    testOutcome s onError ++
    [stmtRD base .dstLen n] ++ pseudoREADOUT base len (n + 1) ++ pseudoCLR base

/-! ### One step of the host -/

/-- The host moves on to its next statement. -/
def State.advanceHost (s : State) : State := { s with host := { s.host with pos := s.host.pos + 1 } }

/-- The host notes the result of an EXPECT; it makes no bus access and the program goes on either way (30_encoding.md
R102, log entry 7). -/
def State.noteExpect (s : State) (holds : Bool) : State :=
  { s with host := { s.host with expectFailed := s.host.expectFailed || !holds } }

/-- The host binds the read data of the last transaction to a name. -/
def State.bindResponse (s : State) (n : Nat) : State :=
  match s.resp with
  | some (.okay (some v)) => { s with host := { s.host with names := bindName s.host.names n v } }
  | some (.elsewhere (some v)) => { s with host := { s.host with names := bindName s.host.names n v } }
  | some (.okay none) => s
  | some (.elsewhere none) => s
  | none => s

/-- Continue with the next state of an outcome, a fault or a refusal staying what it is. -/
def mapNext (o : Host.Outcome State Fault Refusal) (f : State → State) : Host.Outcome State Fault Refusal :=
  match o with
  | .next s => .next (f s)
  | .fault r => .fault r
  | .refused r => .refused r

/-- The host performs one statement (30_encoding.md R102). Only `WR` and `RD` reach the bus. -/
def hostStatement (s : State) : Stmt → Host.Outcome State Fault Refusal
  | .wr addr width e =>
    match e.eval s.host.names with
    | none => .fault .hostUnboundName
    | some v => mapNext (busTransact s addr width (.write v)) State.advanceHost
  | .rd addr width n => mapNext (busTransact s addr width .read) (fun t => (t.bindResponse n).advanceHost)
  | .label _ => .next s.advanceHost
  | .ifGoto c l =>
    match c.eval s.host.names s.irq with
    | none => .fault .hostUnboundName
    | some false => .next s.advanceHost
    | some true =>
      match labelPos l 0 s.host.prog with
      | none => .fault .hostNoLabel
      | some i => .next { s with host := { s.host with pos := i } }
  | .expect c =>
    match c.eval s.host.names s.irq with
    | none => .fault .hostUnboundName
    | some holds => .next (s.noteExpect holds).advanceHost

/-- The host's move: its next statement, nothing when its program has ended. -/
def hostStep (s : State) : Host.Outcome State Fault Refusal :=
  match s.host.prog[s.host.pos]? with
  | none => .next s
  | some st => hostStatement s st

end Sys2Proof.Machine
end

