-- ==== Sys2Proof/Machine/Lifecycle.lean ====
section
/-! DEFINITION. Who moves and what each agent's move is: the engine's completion of the pending command
(30_encoding.md R96, R99), the host's step, and the reset input (00_scope.md R18, 60_exceptions.md R267). -/

namespace Sys2Proof.Machine

/-- The command error of a rejected word (60_exceptions.md R260). -/
def decodeErrorToCmd : DecodeError → CmdError
  | .illegalOp => .illegalOp
  | .reservedField => .reservedField

/-- `Complete()` (30_encoding.md R99), enabled exactly when a command is pending: the decode checks of R96, then
the command's meaning; a rejected word completes in error. -/
def engineStep (s : State) : Host.Outcome State Fault Refusal :=
  if s.pending then
    match decode s.params s.cmd with
    | .error e => .next (s.completeError (decodeErrorToCmd e))
    | .ok i => exec i s
  else .next s

/-- Who moves next (log entry 5): as `turns` says; when it is used up, the engine while a command is pending, else
the host. -/
def State.mover (s : State) : Turn :=
  match s.turns with
  | t :: _ => t
  | [] => if s.pending then .engine else .host

/-- The coming move is taken off the order. -/
def State.takeTurn (s : State) : State := { s with turns := s.turns.tail }

/-- One move of the agent whose turn it is. -/
def machineStep (s : State) : Host.Outcome State Fault Refusal :=
  match s.mover with
  | .host => hostStep s.takeTurn
  | .engine => engineStep s.takeTurn
  | .powerOn => .next s.takeTurn.powerOn

/-- The state in which the command word `w` has just been accepted and the engine moves next. -/
def State.withCommand (s : State) (w : Word) : State := { s.accept w with turns := .engine :: s.turns }

end Sys2Proof.Machine
end

