-- ==== Sys2Proof/Machine/Step.lean ====
section
/-! DEFINITION. One step of the machine, and the placing of a command where the next step runs it. -/

namespace Sys2Proof.Machine

/-- One step: one atomic move of one agent (00_scope.md R18, 20_memory.md R67). -/
def step (s : State) : Host.Outcome State Fault Refusal := Sys2Proof.Machine.machineStep s

/-- The state in which the next step runs the command whose word is the low `nbits` bits of `w`. The block fetches
nothing (10_state.md R21): a command runs once the host has written it to CMD. So the word is latched as by
that write's acceptance (30_encoding.md R97), and the coming move is the engine's (log entry 4). -/
def State.withFetchWord (s : State) (nbits w : Nat) : State := s.withCommand (BitVec.ofNat 32 (w % 2 ^ nbits))

end Sys2Proof.Machine
end

