-- ==== Sys2Proof/Safety.lean ====
section
/-! DEFINITION. What a good state is (the invariant every step keeps) and the words the statements use: how a
command ends, and what it leaves unchanged. -/

namespace Sys2Proof.Machine

/-! ### The invariant -/

/-- STATUS agrees with the hidden state: DONE and ERR are 0 while BUSY (10_state.md R27), ERR is set exactly when
ERRCODE is nonzero and codes 7 to 15 never appear (60_exceptions.md R260), LASTOP shows the latched word's OP
(10_state.md R36). -/
def State.statusWf (s : State) : Bool :=
  (!s.pending || (!s.status.done && !s.status.err)) &&
  (s.status.err == decide (s.status.errcode ≠ 0)) &&
  decide (s.status.errcode.toNat ≤ 6) &&
  decide (s.status.lastop = s.cmd.extractLsb' 0 8)

/-- Both buffers are in canonical form, and DST_LEN lies within OUT_BUF (10_state.md R34, R35, 30_encoding.md
R98). -/
def State.buffersWf (s : State) : Bool :=
  s.inBuf.wf s.params.ibufSize && s.outBuf.wf s.params.obufSize && decide (s.dstLen.toNat ≤ s.params.obufSize)

/-- The unspecified bytes of the two buffers come from two different draws, both made before now
(93_implementation_defined.md U1: independent draws). -/
def State.drawsWf (s : State) : Bool :=
  decide (s.inBuf.fill < s.draws) && decide (s.outBuf.fill < s.draws) && decide (s.inBuf.fill ≠ s.outBuf.fill)

/-- The invariant: legal parameters (00_scope.md R8) and the three conditions above. -/
def State.inv (s : State) : Bool := s.params.legal && s.statusWf && s.buffersWf && s.drawsWf

/-- A good state in which a command is pending: where the engine completes it. -/
def State.inFlight (s : State) : Prop := s.inv = true ∧ s.pending = true

/-! ### How a command ends -/

/-- `t` has the STATUS of a successful completion in `s`: BUSY = 0, DONE = 1, ERR = 0, ERRCODE = 0, OVR and LASTOP
as they were. -/
def succeeded (s t : State) : Prop :=
  t.pending = false ∧ t.status = { s.status with done := true, err := false, errcode := 0 }

/-- `t` is `s` after a completion in the error `e` (60_exceptions.md R262): BUSY = 0, DONE = 1, ERR = 1, ERRCODE
its code, and everything else as it was. -/
def failed (s t : State) (e : CmdError) : Prop :=
  t = { s with pending := false, status := { s.status with done := true, err := true, errcode := e.code } }

/-! ### What a command leaves unchanged -/

/-- Nothing but STATUS differs. -/
def keepsAllButStatus (s t : State) : Prop := t = { s with status := t.status, pending := t.pending }

/-- Nothing but CHK and STATUS differs. -/
def keepsAllButChk (s t : State) : Prop := t = { s with chk := t.chk, status := t.status, pending := t.pending }

/-- Nothing but OUT_BUF, DST_LEN and STATUS differs. -/
def keepsAllButOut (s t : State) : Prop :=
  t = { s with outBuf := t.outBuf, dstLen := t.dstLen, status := t.status, pending := t.pending }

/-- Nothing but OUT_BUF, DST_LEN, CHK, CKSUM and STATUS differs. -/
def keepsAllButOutAndChecksum (s t : State) : Prop :=
  t = { s with
    outBuf := t.outBuf, dstLen := t.dstLen, chk := t.chk, cksum := t.cksum
    status := t.status, pending := t.pending }

/-- The bytes `out` are the result of `t`: DST_LEN is their number, OUT_BUF begins with them, and every byte of
OUT_BUF at and beyond DST_LEN is what it was in `s` (30_encoding.md R98). -/
def outputIs (s t : State) (out : List Byte) : Prop :=
  t.dstLen.toNat = out.length ∧ t.outBuf.bytes 0 out.length = out ∧
    ∀ i, out.length ≤ i → t.outBuf.byte i = s.outBuf.byte i

/-! ### Command words and operands as the rules describe them -/

/-- The word is illegal (30_encoding.md R93): its OP lies in one of the rule's ranges, or its option is absent. -/
def illegalWord (p : Params) (w : Word) : Prop :=
  let op := (w.extractLsb' 0 8).toNat
  (0x0C ≤ op ∧ op ≤ 0x0F) ∨ (0x12 ≤ op ∧ op ≤ 0x1F) ∨ (0x21 ≤ op ∧ op ≤ 0x2F) ∨ (0x31 ≤ op ∧ op ≤ 0xFF) ∨
    ((op = 0x10 ∨ op = 0x11) ∧ p.hasB58 = false) ∨ (op = 0x20 ∧ p.hasEcmul = false)

/-- A reserved field of the word is nonzero (30_encoding.md R94). -/
def reservedWord (w : Word) : Prop :=
  w.extractLsb' 16 16 ≠ 0 ∨ (w.extractLsb' 0 8 ≠ 0x02 ∧ w.extractLsb' 8 8 ≠ 0)

/-- The private scalar (43_secp256k1.md R213): the 32 bytes of D as k = sum D[i] * 256^(31-i). -/
def State.scalar (s : State) : Nat :=
  ∑ i ∈ Finset.range 32, (s.inBuf.byte (s.hrpLen.toNat + i)).toNat * 256 ^ (31 - i)

/-- The byte is a character of the Base58 alphabet, by the ranges of 42_base58.md R190. -/
def inAlpha (c : Byte) : Prop :=
  (0x31 ≤ c.toNat ∧ c.toNat ≤ 0x39) ∨ (0x41 ≤ c.toNat ∧ c.toNat ≤ 0x48) ∨ (0x4A ≤ c.toNat ∧ c.toNat ≤ 0x4E) ∨
    (0x50 ≤ c.toNat ∧ c.toNat ≤ 0x5A) ∨ (0x61 ≤ c.toNat ∧ c.toNat ≤ 0x6B) ∨ (0x6D ≤ c.toNat ∧ c.toNat ≤ 0x7A)

/-- CHARSET as the one string of 40_checksum_codec.md R126. -/
def bech32Chars : List Char :=
  ['q', 'p', 'z', 'r', 'y', '9', 'x', '8', 'g', 'f', '2', 't', 'v', 'd', 'w', '0'] ++
  ['s', '3', 'j', 'n', '5', '4', 'k', 'h', 'c', 'e', '6', 'm', 'u', 'a', '7', 'l']

/-- ALPHA by the table of 42_base58.md R190, ten digits a row. -/
def base58Chars : List Char :=
  ['1', '2', '3', '4', '5', '6', '7', '8', '9', 'A'] ++ ['B', 'C', 'D', 'E', 'F', 'G', 'H', 'J', 'K', 'L'] ++
  ['M', 'N', 'P', 'Q', 'R', 'S', 'T', 'U', 'V', 'W'] ++ ['X', 'Y', 'Z', 'a', 'b', 'c', 'd', 'e', 'f', 'g'] ++
  ['h', 'i', 'j', 'k', 'm', 'n', 'o', 'p', 'q', 'r'] ++ ['s', 't', 'u', 'v', 'w', 'x', 'y', 'z']

/-- The digit of a character by that table, 58 for one outside it. -/
def digit58 (c : Byte) : Nat := base58Chars.findIdx (fun k => k.toNat == c.toNat)

/-- The number of a byte sequence (42_base58.md R191): sum of b[i] * 256^(len(b)-1-i). -/
def bytesValue (b : List Byte) : Nat :=
  ∑ i ∈ Finset.range b.length, (b.getD i 0).toNat * 256 ^ (b.length - 1 - i)

/-- The number of a character sequence (42_base58.md R193): sum of idx(s[i]) * 58^(len(s)-1-i). -/
def charsValue (v : List Byte) : Nat :=
  ∑ i ∈ Finset.range v.length, digit58 (v.getD i 0) * 58 ^ (v.length - 1 - i)

/-- The number of a sequence of 5-bit values, the first most significant: sum of v[i] * 32^(len(v)-1-i). -/
def groupsValue (v : List Byte) : Nat :=
  ∑ i ∈ Finset.range v.length, (v.getD i 0).toNat * 32 ^ (v.length - 1 - i)

/-- Every byte of D is a 5-bit value. -/
def State.dataIsSymbols (s : State) : Prop := ∀ b ∈ s.regionD, b.toNat < 32

/-! ### The rule of a command, and which commands read IN_BUF -/

/-- `Rule_op` of 30_encoding.md R96: the result of a command's rule in a state. -/
def ruleOf (i : Instr) (s : State) : Except CmdError Result :=
  match i with
  | .nop => ruleNop s
  | .polyInit => rulePolyInit s
  | .polyStep imm => rulePolyStep imm s
  | .polyHrp => rulePolyHrp s
  | .polyData => rulePolyData s
  | .expand => ruleExpand s
  | .createChecksum => ruleCreateChecksum s
  | .charsetMap => ruleCharsetMap s
  | .repack8to5 => ruleRepack8to5 s
  | .repack5to8 => ruleRepack5to8 s
  | .b32Encode => ruleB32Encode s
  | .segwitEncode => ruleSegwitEncode s
  | .b58Encode => ruleB58Encode s
  | .b58Decode => ruleB58Decode s
  | .ecPubkey => ruleEcPubkey s
  | .zeroize => ruleZeroize s

/-- Column "reads IN_BUF" of 30_encoding.md R92. -/
def readsInBuf : Instr → Bool
  | .nop => false
  | .polyInit => false
  | .polyStep _ => false
  | .polyHrp => true
  | .polyData => true
  | .expand => true
  | .createChecksum => true
  | .charsetMap => true
  | .repack8to5 => true
  | .repack5to8 => true
  | .b32Encode => true
  | .segwitEncode => true
  | .b58Encode => true
  | .b58Decode => true
  | .ecPubkey => true
  | .zeroize => false

end Sys2Proof.Machine
end

