-- ==== Sys2Proof/Certificates/Slice0/Obligations.lean ====
section
/-! DEFINITION. The statements about the machine, one `def Obligations.<Name> : Prop` each. A statement about a
completion is made in a good state with a command in flight (`State.inFlight`, Sys2Proof/Safety.lean); that every
step keeps the good states good is a statement of its own. -/

open Sys2Proof Sys2Proof.Machine

/-! ### Encoding and decoding -/

/-- Every command a block implements decodes from its word, with every immediate (30_encoding.md R92, R101). -/
def Obligations.DecodeOfEncodeIsTheCommand : Prop :=
  ∀ (p : Params) (i : Instr), i.wf p = true → decode p (encode i) = .ok i

/-- An accepted illegal word completes with ILLEGAL_OP and changes nothing but STATUS; no other word is illegal
(30_encoding.md R93). -/
def Obligations.IllegalWordsCompleteWithIllegalOp : Prop :=
  ∀ s : State, s.inFlight → s.mover = .engine →
    (illegalWord s.params s.cmd → ∃ t, step s = .next t ∧ failed s.takeTurn t .illegalOp) ∧
    (¬ illegalWord s.params s.cmd → decode s.params s.cmd ≠ .error .illegalOp)

/-- A word with a legal OP completes with RESERVED_FIELD when a reserved field is nonzero; when none is, it is the
one encoding of a command, POLY_STEP having one per immediate (30_encoding.md R94). -/
def Obligations.ReservedFieldsCompleteWithReservedField : Prop :=
  ∀ s : State, s.inFlight → s.mover = .engine → ¬ illegalWord s.params s.cmd →
    (reservedWord s.cmd → ∃ t, step s = .next t ∧ failed s.takeTurn t .reservedField) ∧
    (¬ reservedWord s.cmd → ∃ i, decode s.params s.cmd = .ok i ∧ s.cmd = encode i)

/-- Words written out from 30_encoding.md R90 and R92 decode to the commands they stand for (a sanity check). -/
def Obligations.WordsOfTheTableDecode : Prop :=
  decode Config.thisHardware 0x00000000 = .ok .nop ∧
  decode Config.thisHardware 0x0000FF02 = .ok (.polyStep 0xFF) ∧
  decode Config.thisHardware 0x0000000B = .ok .segwitEncode ∧
  decode Config.thisHardware 0x00000011 = .ok .b58Decode ∧
  decode Config.thisHardware 0x00000020 = .ok .ecPubkey ∧
  decode Config.thisHardware 0x00000030 = .ok .zeroize ∧
  decode Config.thisHardware 0x0000000C = .error .illegalOp ∧
  decode Config.thisHardware 0x00000105 = .error .reservedField

/-! ### The life of a command -/

/-- When it is the engine's turn and the latched word decodes to a command, the step is `exec` of that command at the
state with the turn taken off the order. -/
def Obligations.StepRunsTheDecodedCommand : Prop :=
  ∀ (s : State) (i : Instr), s.mover = .engine → s.pending = true → decode s.params s.cmd = .ok i →
    step s = exec i s.takeTurn

/-- Acceptance (30_encoding.md R97): a CMD write while idle latches the word, whatever it is; BUSY is set, DONE, ERR
and ERRCODE are cleared, LASTOP is the word's low byte, OVR and all other state are unchanged. -/
def Obligations.CmdWriteWhileIdleIsAccepted : Prop :=
  ∀ (s : State) (v : Word), s.pending = false →
    s.busWrite 0x014 v =
      { s with
        cmd := v, pending := true
        status := { s.status with done := false, err := false, errcode := 0, lastop := v.extractLsb' 0 8 } }

/-- The completion is enabled exactly while a command is pending (30_encoding.md R99): while idle the engine's move
does nothing; while pending it always gives a next state, with BUSY = 0 and DONE = 1 as STATUS reads, OVR, LASTOP,
CTRL, the latched word, the parameters and the host agent as they were. -/
def Obligations.EngineCompletesExactlyWhilePending : Prop :=
  ∀ s : State,
    (s.pending = false → engineStep s = .next s) ∧
    (s.pending = true → ∃ t, engineStep s = .next t ∧
      t.statusWord.getLsbD 0 = false ∧ t.statusWord.getLsbD 1 = true ∧
      t.status.ovr = s.status.ovr ∧ t.status.lastop = s.status.lastop ∧ t.irqEn = s.irqEn ∧ t.cmd = s.cmd ∧
      t.params = s.params ∧ t.host = s.host ∧ t.turns = s.turns ∧ t.resp = s.resp ∧ t.draws = s.draws)

/-- Errors are precise (60_exceptions.md R262): a completion that leaves ERR set has recorded ERR, ERRCODE, DONE and BUSY,
LASTOP holds the failing word's bits 7:0, and nothing else is written; and a command whose rule and output check give an
error completes so, with that error's code. -/
def Obligations.ErrorsArePrecise : Prop :=
  (∀ s t : State, s.inFlight → engineStep s = .next t → t.status.err = true →
    t.status.lastop = s.cmd.extractLsb' 0 8 ∧ ∃ e : CmdError, failed s t e) ∧
  (∀ (i : Instr) (s : State) (e : CmdError), s.inFlight → fitOutput s.params (ruleOf i s) = .error e →
    ∃ t, exec i s = .next t ∧ failed s t e)

/-- The order of the errors (60_exceptions.md R263): the code a completion leaves is that of the first condition, in the
rule's order, that applies, and 0 when none does. -/
def Obligations.ErrorsFollowTheirOrder : Prop :=
  ∀ s t : State, s.inFlight → engineStep s = .next t →
    (illegalWord s.params s.cmd → t.status.errcode = 1) ∧
    (¬ illegalWord s.params s.cmd → reservedWord s.cmd → t.status.errcode = 2) ∧
    ∀ i, decode s.params s.cmd = .ok i →
      (readsInBuf i = true → s.params.ibufSize < s.hrpLen.toNat + s.srcLen.toNat → t.status.errcode = 3) ∧
      (readsInBuf i = true → s.regionsFit = true →
        (i = .ecPubkey → s.srcLen.toNat ≠ 32 → t.status.errcode = 3) ∧
        (i = .charsetMap ∨ i = .repack5to8 ∨ i = .b32Encode → ¬ s.dataIsSymbols → t.status.errcode = 4) ∧
        (i = .b58Decode → (∃ c ∈ s.regionD, ¬ inAlpha c) → t.status.errcode = 4) ∧
        (i = .ecPubkey → s.srcLen.toNat = 32 → s.scalar = 0 ∨ curveOrder ≤ s.scalar → t.status.errcode = 5)) ∧
      (∀ r, ruleOf i s = .ok r → t.status.errcode = if s.params.obufSize < (r.out.getD []).length then 6 else 0)

/-- A command of an absent option completes with ILLEGAL_OP (30_encoding.md R93). Of the commands present, one that
reads IN_BUF completes with IN_LENGTH when HRP_LEN + SRC_LEN exceeds IBUF_SIZE, and one that does not read IN_BUF
always succeeds (30_encoding.md R95). -/
def Obligations.AbsentOptionsAndOverlongRegionsFail : Prop :=
  ∀ (i : Instr) (s : State), s.inFlight →
    (i.wf s.params = false → ∃ t, exec i s = .next t ∧ failed s t .illegalOp) ∧
    (i.wf s.params = true → readsInBuf i = true → s.params.ibufSize < s.hrpLen.toNat + s.srcLen.toNat →
      ∃ t, exec i s = .next t ∧ failed s t .inLength) ∧
    (readsInBuf i = false → ∃ t, exec i s = .next t ∧ succeeded s t)

/-- CHARSET_MAP, REPACK_5TO8 and B32_ENCODE complete with BAD_SYMBOL when any value of D is 32 or more
(40_checksum_codec.md R133, 41_bech32_framing.md R163, R165), and B58_DECODE when a byte of D is no character of the
alphabet (42_base58.md R190, R194), whatever the length of the output would be (60_exceptions.md R263). -/
def Obligations.BadValuesGiveBadSymbol : Prop :=
  ∀ s : State, s.inFlight → s.regionsFit = true →
    ((∃ b ∈ s.regionD, 32 ≤ b.toNat) →
      (∃ t, exec .charsetMap s = .next t ∧ failed s t .badSymbol) ∧
      (∃ t, exec .repack5to8 s = .next t ∧ failed s t .badSymbol) ∧
      (∃ t, exec .b32Encode s = .next t ∧ failed s t .badSymbol)) ∧
    (s.params.hasB58 = true → (∃ c ∈ s.regionD, ¬ inAlpha c) →
      ∃ t, exec .b58Decode s = .next t ∧ failed s t .badSymbol)

/-- A result longer than OBUF_SIZE is OUT_LENGTH and writes nothing (30_encoding.md R98), with the length each
command's rule gives: EXPAND, CHARSET_MAP, REPACK_8TO5, REPACK_5TO8, B32_ENCODE, SEGWIT_ENCODE, B58_ENCODE,
B58_DECODE. -/
def Obligations.LongResultsGiveOutLength : Prop :=
  ∀ s : State, s.inFlight → s.regionsFit = true →
    (s.params.obufSize < 2 * s.hrpLen.toNat + 1 → ∃ t, exec .expand s = .next t ∧ failed s t .outLength) ∧
    (s.dataIsSymbols → s.params.obufSize < s.srcLen.toNat →
      ∃ t, exec .charsetMap s = .next t ∧ failed s t .outLength) ∧
    (s.params.obufSize < (8 * s.srcLen.toNat + 4) / 5 →
      ∃ t, exec .repack8to5 s = .next t ∧ failed s t .outLength) ∧
    (s.dataIsSymbols → s.params.obufSize < 5 * s.srcLen.toNat / 8 →
      ∃ t, exec .repack5to8 s = .next t ∧ failed s t .outLength) ∧
    (s.dataIsSymbols → s.params.obufSize < s.hrpLen.toNat + s.srcLen.toNat + 7 →
      ∃ t, exec .b32Encode s = .next t ∧ failed s t .outLength) ∧
    (s.params.obufSize < s.hrpLen.toNat + 8 + (8 * s.srcLen.toNat + 4) / 5 →
      ∃ t, exec .segwitEncode s = .next t ∧ failed s t .outLength) ∧
    (s.params.hasB58 = true → s.params.obufSize < (b58enc s.regionD).length →
      ∃ t, exec .b58Encode s = .next t ∧ failed s t .outLength) ∧
    (s.params.hasB58 = true → (∀ c ∈ s.regionD, inAlpha c) → s.params.obufSize < (b58dec s.regionD).length →
      ∃ t, exec .b58Decode s = .next t ∧ failed s t .outLength)

/-- EC_PUBKEY completes with IN_LENGTH when SRC_LEN is not 32, and with INVALID_PRIVATE_KEY when the scalar is 0 or
not below n (43_secp256k1.md R213, R214). -/
def Obligations.EcPubkeyRejectsBadScalars : Prop :=
  ∀ s : State, s.inFlight → s.params.hasEcmul = true → s.regionsFit = true →
    (s.srcLen.toNat ≠ 32 → ∃ t, exec .ecPubkey s = .next t ∧ failed s t .inLength) ∧
    (s.srcLen.toNat = 32 → s.scalar = 0 ∨ curveOrder ≤ s.scalar →
      ∃ t, exec .ecPubkey s = .next t ∧ failed s t .invalidPrivateKey)

/-! ### What each command does, and its frame -/

/-- NOP (44_control.md R240) completes and changes nothing but STATUS. -/
def Obligations.NopTouchesOnlyStatus : Prop :=
  ∀ s : State, s.inFlight → ∃ t, exec .nop s = .next t ∧ succeeded s t ∧ keepsAllButStatus s t

/-- POLY_INIT (40_checksum_codec.md R127) sets CHK to 1, and changes nothing else but STATUS. -/
def Obligations.PolyInitSetsChkToOne : Prop :=
  ∀ s : State, s.inFlight → ∃ t, exec .polyInit s = .next t ∧ succeeded s t ∧ t.chk = 1 ∧ keepsAllButChk s t

/-- POLY_STEP (40_checksum_codec.md R128) advances CHK by one polystep with its immediate, for every immediate, and
changes nothing else but STATUS. -/
def Obligations.PolyStepAdvancesChk : Prop :=
  ∀ (imm : Byte) (s : State), s.inFlight →
    ∃ t, exec (.polyStep imm) s = .next t ∧ succeeded s t ∧ t.chk = polystep s.chk imm ∧ keepsAllButChk s t

/-- polystep on numbers, as 40_checksum_codec.md R121 writes it with the constants of R120: the top five bits 29:25
are shifted out, the value is XORed in, and each generator where its bit is set. -/
def Obligations.PolystepIsTheShiftAndXorOfItsRule : Prop :=
  ∀ (c : Acc) (v : Byte),
    (polystep c v).toNat =
      ((c.toNat % 2 ^ 25) <<< 5) ^^^ v.toNat ^^^
        (if c.toNat.testBit 25 then 0x3b6a57b2 else 0) ^^^ (if c.toNat.testBit 26 then 0x26508e6d else 0) ^^^
        (if c.toNat.testBit 27 then 0x1ea119fa else 0) ^^^ (if c.toNat.testBit 28 then 0x3d4233dd else 0) ^^^
        (if c.toNat.testBit 29 then 0x2a1462b3 else 0)

/-- POLY_HRP (40_checksum_codec.md R129) feeds the expansion of H, and POLY_DATA (R130) the bytes of D, into CHK;
nothing else but STATUS changes. -/
def Obligations.PolyHrpAndPolyDataFeedTheirRegions : Prop :=
  ∀ s : State, s.inFlight → s.regionsFit = true →
    (∃ t, exec .polyHrp s = .next t ∧ succeeded s t ∧
      t.chk = polymodFrom s.chk (expandHrp (s.inBuf.bytes 0 s.hrpLen.toNat)) ∧ keepsAllButChk s t) ∧
    (∃ t, exec .polyData s = .next t ∧ succeeded s t ∧
      t.chk = polymodFrom s.chk (s.inBuf.bytes s.hrpLen.toNat s.srcLen.toNat) ∧ keepsAllButChk s t)

/-- EXPAND (40_checksum_codec.md R131): the output is the high three bits of each byte of H, a zero, and the low five
bits of each, DST_LEN 2*HRP_LEN + 1; nothing but OUT_BUF, DST_LEN and STATUS changes. -/
def Obligations.ExpandWritesTheExpansion : Prop :=
  ∀ s : State, s.inFlight → s.regionsFit = true → 2 * s.hrpLen.toNat + 1 ≤ s.params.obufSize →
    ∃ t, exec .expand s = .next t ∧ succeeded s t ∧ outputIs s t (expandHrp s.regionH) ∧
      t.dstLen.toNat = 2 * s.hrpLen.toNat + 1 ∧
      (∀ i < s.hrpLen.toNat, (t.outBuf.byte i).toNat = (s.inBuf.byte i).toNat / 32 ∧
        (t.outBuf.byte (s.hrpLen.toNat + 1 + i)).toNat = (s.inBuf.byte i).toNat % 32) ∧
      t.outBuf.byte s.hrpLen.toNat = 0 ∧ keepsAllButOut s t

/-- CREATE_CHECKSUM (40_checksum_codec.md R132): CHK is the raw polymod of expand(H), D and six zeros from 1,
whatever CHK was; CKSUM is it XOR 1; the output is the six 5-bit groups of CKSUM, the most significant first (R125);
nothing else but STATUS changes. -/
def Obligations.CreateChecksumWritesTheSixSymbols : Prop :=
  ∀ s : State, s.inFlight → s.regionsFit = true →
    ∃ t, exec .createChecksum s = .next t ∧ succeeded s t ∧
      t.chk = polymod (expandHrp s.regionH ++ s.regionD ++ [0, 0, 0, 0, 0, 0]) ∧ t.cksum = t.chk ^^^ 1 ∧
      outputIs s t (groups6 t.cksum) ∧ t.dstLen = 6 ∧
      (∀ i < 6, (t.outBuf.byte i).toNat = (t.cksum.toNat >>> (5 * (5 - i))) % 32) ∧ keepsAllButOutAndChecksum s t

/-- CHARSET maps each 5-bit value to its character in the string of 40_checksum_codec.md R126, and CHARSET_MAP (R133):
when every value of D is below 32 and D fits OUT_BUF, the output is D through CHARSET, byte by byte; nothing but
OUT_BUF, DST_LEN and STATUS changes. -/
def Obligations.CharsetMapMapsTheData : Prop :=
  (∀ v : Byte, v.toNat < 32 → (charsetByte v).toNat = (bech32Chars.getD v.toNat ' ').toNat) ∧
  ∀ s : State, s.inFlight → s.regionsFit = true → s.dataIsSymbols → s.srcLen.toNat ≤ s.params.obufSize →
    ∃ t, exec .charsetMap s = .next t ∧ succeeded s t ∧ outputIs s t (s.regionD.map charsetByte) ∧
      t.dstLen = s.srcLen ∧
      (∀ i < s.srcLen.toNat, (t.outBuf.byte i).toNat =
        (bech32Chars.getD (s.inBuf.byte (s.hrpLen.toNat + i)).toNat ' ').toNat) ∧ keepsAllButOut s t

/-- REPACK_8TO5 (41_bech32_framing.md R160, R162): the output is repack85(D), DST_LEN ceil(8*SRC_LEN/5); it is the bits of
D, most significant first, zero-padded on the right: every value is below 32, and in base 32 they are the big-endian
number of D shifted left by the padding; nothing but OUT_BUF, DST_LEN and STATUS changes. -/
def Obligations.Repack8to5WritesTheGroups : Prop :=
  ∀ s : State, s.inFlight → s.regionsFit = true → (8 * s.srcLen.toNat + 4) / 5 ≤ s.params.obufSize →
    ∃ t, exec .repack8to5 s = .next t ∧ succeeded s t ∧ outputIs s t (repack85 s.regionD) ∧
      t.dstLen.toNat = (8 * s.srcLen.toNat + 4) / 5 ∧ (∀ v ∈ repack85 s.regionD, v.toNat < 32) ∧
      groupsValue (repack85 s.regionD) =
        bytesValue s.regionD * 2 ^ (5 * ((8 * s.srcLen.toNat + 4) / 5) - 8 * s.srcLen.toNat) ∧ keepsAllButOut s t

/-- REPACK_5TO8 (41_bech32_framing.md R161, R163): when every value of D is below 32, the output is repack58(D), DST_LEN
floor(5*SRC_LEN/8); its bytes are, big-endian, the base-32 number of D without the bits that fill no whole byte;
nothing but OUT_BUF, DST_LEN and STATUS changes. -/
def Obligations.Repack5to8WritesTheBytes : Prop :=
  ∀ s : State, s.inFlight → s.regionsFit = true → s.dataIsSymbols → 5 * s.srcLen.toNat / 8 ≤ s.params.obufSize →
    ∃ t, exec .repack5to8 s = .next t ∧ succeeded s t ∧ outputIs s t (repack58 s.regionD) ∧
      t.dstLen.toNat = 5 * s.srcLen.toNat / 8 ∧
      bytesValue (repack58 s.regionD) = groupsValue s.regionD / 2 ^ (5 * s.srcLen.toNat % 8) ∧ keepsAllButOut s t

/-- B32_ENCODE (41_bech32_framing.md R164, R165): when every value of D is below 32 and the string fits, the output
is H, the separator '1', and D with its six checksum symbols through CHARSET; CHK and CKSUM as CREATE_CHECKSUM;
nothing else but STATUS changes. -/
def Obligations.B32EncodeWritesTheString : Prop :=
  ∀ s : State, s.inFlight → s.regionsFit = true → s.dataIsSymbols →
    s.hrpLen.toNat + 1 + s.srcLen.toNat + 6 ≤ s.params.obufSize →
    ∃ t, exec .b32Encode s = .next t ∧ succeeded s t ∧
      t.chk = polymod (expandHrp s.regionH ++ s.regionD ++ [0, 0, 0, 0, 0, 0]) ∧ t.cksum = t.chk ^^^ 1 ∧
      outputIs s t (s.regionH ++ [0x31] ++ (s.regionD ++ groups6 t.cksum).map charsetByte) ∧
      t.dstLen.toNat = s.hrpLen.toNat + 1 + s.srcLen.toNat + 6 ∧ keepsAllButOutAndChecksum s t

/-- SEGWIT_ENCODE (41_bech32_framing.md R166): the same string of the version 0 and repack85(D). -/
def Obligations.SegwitEncodeWritesTheAddress : Prop :=
  ∀ s : State, s.inFlight → s.regionsFit = true →
    s.hrpLen.toNat + 8 + (8 * s.srcLen.toNat + 4) / 5 ≤ s.params.obufSize →
    ∃ t, exec .segwitEncode s = .next t ∧ succeeded s t ∧
      t.chk = polymod (expandHrp s.regionH ++ (0 :: repack85 s.regionD) ++ [0, 0, 0, 0, 0, 0]) ∧
      t.cksum = t.chk ^^^ 1 ∧
      outputIs s t (s.regionH ++ [0x31] ++ ((0 :: repack85 s.regionD) ++ groups6 t.cksum).map charsetByte) ∧
      t.dstLen.toNat = s.hrpLen.toNat + 8 + (8 * s.srcLen.toNat + 4) / 5 ∧ keepsAllButOutAndChecksum s t

/-- B58_ENCODE (42_base58.md R190 to R192): the output is b58enc(D), a string over the alphabet whose digits, the most
significant first, have the value of D read big-endian, and which begins with as many '1' as D does with zero bytes;
nothing but OUT_BUF, DST_LEN and STATUS changes. -/
def Obligations.B58EncodeWritesTheString : Prop :=
  ∀ s : State, s.inFlight → s.params.hasB58 = true → s.regionsFit = true →
    (b58enc s.regionD).length ≤ s.params.obufSize →
    ∃ t, exec .b58Encode s = .next t ∧ succeeded s t ∧ outputIs s t (b58enc s.regionD) ∧
      (∀ c ∈ b58enc s.regionD, digit58 c < 58) ∧ charsValue (b58enc s.regionD) = bytesValue s.regionD ∧
      leadingCount 0x31 (b58enc s.regionD) = leadingCount 0x00 s.regionD ∧ keepsAllButOut s t

/-- B58_DECODE (42_base58.md R190, R193, R194): when every byte of D is in the alphabet, the output is b58dec(D), no
longer than SRC_LEN; its bytes have, big-endian, the value of D's digits, and it begins with as many zero bytes as D
does with '1'; nothing but OUT_BUF, DST_LEN and STATUS changes. -/
def Obligations.B58DecodeWritesTheBytes : Prop :=
  ∀ s : State, s.inFlight → s.params.hasB58 = true → s.regionsFit = true → (∀ c ∈ s.regionD, inAlpha c) →
    (b58dec s.regionD).length ≤ s.srcLen.toNat ∧
    ((b58dec s.regionD).length ≤ s.params.obufSize →
      ∃ t, exec .b58Decode s = .next t ∧ succeeded s t ∧ outputIs s t (b58dec s.regionD) ∧
        bytesValue (b58dec s.regionD) = charsValue s.regionD ∧
        leadingCount 0x00 (b58dec s.regionD) = leadingCount 0x31 s.regionD ∧ keepsAllButOut s t)

/-- EC_PUBKEY (43_secp256k1.md R211 to R214): for every valid scalar k the sum of k terms G is an affine point
(x, y), and the output is its compressed form, 33 bytes; nothing but OUT_BUF, DST_LEN and STATUS changes. -/
def Obligations.EcPubkeyWritesTheCompressedMultiple : Prop :=
  ∀ s : State, s.inFlight → s.params.hasEcmul = true → s.regionsFit = true → s.srcLen.toNat = 32 →
    1 ≤ s.scalar → s.scalar < curveOrder →
    ∃ t x y, exec .ecPubkey s = .next t ∧ succeeded s t ∧ pointSmul s.scalar pointG = .affine x y ∧
      outputIs s t (BitVec.ofNat 8 (2 + y % 2) :: beBytes 32 x) ∧ t.dstLen = 33 ∧ keepsAllButOut s t

/-- ZEROIZE (44_control.md R241): every byte of both buffers is 0, the lengths are 0, CHK is 1, CKSUM is 0; CTRL, OVR,
the parameters, the latched word and the host agent are unchanged. -/
def Obligations.ZeroizeClearsOperandsAndResults : Prop :=
  ∀ s : State, s.inFlight →
    ∃ t, exec .zeroize s = .next t ∧ succeeded s t ∧
      (∀ i < s.params.ibufSize, t.inBuf.byte i = 0) ∧ (∀ i < s.params.obufSize, t.outBuf.byte i = 0) ∧
      t.hrpLen = 0 ∧ t.srcLen = 0 ∧ t.dstLen = 0 ∧ t.chk = 1 ∧ t.cksum = 0 ∧
      t = { s with
        inBuf := t.inBuf, outBuf := t.outBuf, hrpLen := t.hrpLen, srcLen := t.srcLen, dstLen := t.dstLen
        chk := t.chk, cksum := t.cksum, status := t.status, pending := t.pending }

/-! ### Laws of the pure functions -/

/-- polymodFrom is the fold of polystep, so a polymod can be computed in pieces (40_checksum_codec.md R122). -/
def Obligations.PolymodIsAFold : Prop :=
  (∀ c, polymodFrom c [] = c) ∧ (∀ c v vs, polymodFrom c (v :: vs) = polymodFrom (polystep c v) vs) ∧
  (∀ vs, polymod vs = polymodFrom 1 vs) ∧ polymod [] = 1 ∧
  (∀ c s t, polymodFrom c (s ++ t) = polymodFrom (polymodFrom c s) t)

/-- The verification law (40_checksum_codec.md R134): a sequence with its checksum symbols has polymod 1. -/
def Obligations.ChecksummedDataVerifies : Prop :=
  ∀ h d : List Byte, polymod (expandHrp h ++ d ++ groups6 (checksum30 h d)) = 1

/-- The re-packings undo each other (41_bech32_framing.md R167): bytes to 5-bit values, all below 32, and back loses
nothing; 5-bit values to bytes and back loses nothing when their bits fill whole bytes; for other lengths the bits that
fill no whole byte are replaced by zeros in the last group that is left. -/
def Obligations.RepackRoundTrips : Prop :=
  (∀ b : List Byte, repack58 (repack85 b) = b ∧ ∀ v ∈ repack85 b, v.toNat < 32) ∧
  (∀ v : List Byte, (∀ x ∈ v, x.toNat < 32) →
    (5 * v.length % 8 = 0 → repack85 (repack58 v) = v) ∧
    (repack85 (repack58 v)).length = (8 * (5 * v.length / 8) + 4) / 5 ∧
    ∀ i < (8 * (5 * v.length / 8) + 4) / 5,
      let z := 5 * (i + 1) - 8 * (5 * v.length / 8)
      ((repack85 (repack58 v)).getD i 0).toNat = (v.getD i 0).toNat / 2 ^ z * 2 ^ z)

/-- SEGWIT_ENCODE of H and D gives the same OUT_BUF, DST_LEN, CHK and CKSUM as B32_ENCODE of H and
[0] ++ repack85(D) (41_bech32_framing.md R168), from states whose results were the same. -/
def Obligations.SegwitIsB32OfTheRepackedProgram : Prop :=
  ∀ s u : State, s.inFlight → u.inFlight → s.regionsFit = true → u.regionsFit = true →
    s.params = u.params → s.regionH = u.regionH → u.regionD = 0 :: repack85 s.regionD →
    s.outBuf = u.outBuf → s.dstLen = u.dstLen → s.chk = u.chk → s.cksum = u.cksum →
    ∃ t w, exec .segwitEncode s = .next t ∧ exec .b32Encode u = .next w ∧
      t.outBuf = w.outBuf ∧ t.dstLen = w.dstLen ∧ t.chk = w.chk ∧ t.cksum = w.cksum ∧
      t.status.err = w.status.err ∧ t.status.errcode = w.status.errcode

/-- The Base58 codec is a bijection (42_base58.md R195): an encoding is over the alphabet and decodes to its bytes, and
a string over the alphabet is the encoding of what it decodes to. -/
def Obligations.B58RoundTrips : Prop :=
  (∀ b : List Byte, (∀ c ∈ b58enc b, inAlpha c) ∧ b58dec (b58enc b) = b) ∧
  (∀ v : List Byte, (∀ c ∈ v, inAlpha c) → b58enc (b58dec v) = v)

/-- The encoding keeps leading zeros as '1' characters, and has a leading '1' only for them (42_base58.md R196): it is at
least as long as they are many, begins with that many '1', and with no more. -/
def Obligations.B58KeepsLeadingZeros : Prop :=
  ∀ b : List Byte,
    leadingCount 0x00 b ≤ (b58enc b).length ∧ (∀ c ∈ (b58enc b).take (leadingCount 0x00 b), c = 0x31) ∧
    (leadingCount 0x00 b = 0 → (b58enc b).head? ≠ some 0x31) ∧
    leadingCount 0x31 (b58enc b) = leadingCount 0x00 b

/-- Doubling and adding computes the k-fold sum, for every point of the curve (43_secp256k1.md R211). -/
def Obligations.DoubleAndAddIsTheSum : Prop :=
  ∀ (k : Nat) (q : Point), q.onCurve = true → k < 2 ^ 256 → pointMul 256 k q = pointSmul k q

/-- G has order n: n·G = O, and no smaller multiple is (43_secp256k1.md R210, R214). -/
def Obligations.GeneratorHasOrderN : Prop :=
  pointSmul curveOrder pointG = .infinity ∧ ∀ k, 1 ≤ k → k < curveOrder → pointSmul k pointG ≠ .infinity

/-! ### The bus -/

/-- A buffer window's word holds four buffer bytes, the lowest index in bits 7:0 (20_memory.md R60): IN_BUF at
0x1000, and OUT_BUF at 0x2000. -/
def Obligations.BufferWordsAreLittleEndian : Prop :=
  ∀ (s : State) (j : Nat), s.params.legal = true →
    (4 * j < s.params.ibufSize → (s.readWord (0x1000 + 4 * j)).toNat =
      (s.inBuf.byte (4 * j)).toNat + (s.inBuf.byte (4 * j + 1)).toNat * 2 ^ 8 +
        (s.inBuf.byte (4 * j + 2)).toNat * 2 ^ 16 + (s.inBuf.byte (4 * j + 3)).toNat * 2 ^ 24) ∧
    (4 * j < s.params.obufSize → (s.readWord (0x2000 + 4 * j)).toNat =
      (s.outBuf.byte (4 * j)).toNat + (s.outBuf.byte (4 * j + 1)).toNat * 2 ^ 8 +
        (s.outBuf.byte (4 * j + 2)).toNat * 2 ^ 16 + (s.outBuf.byte (4 * j + 3)).toNat * 2 ^ 24)

/-- Host writes that store bits (20_memory.md R65, 10_state.md R26): a CTRL write with SRST = 0 sets IRQ_EN to its bit 0,
idle or not, and changes nothing else. While idle HRP_LEN and SRC_LEN store bits 15:0, CHK bits 29:0, and nothing else
changes; a word of the IN_BUF window stores its four bytes and nothing else, and reads back. -/
def Obligations.IdleWritesStoreTheirBits : Prop :=
  (∀ (s : State) (v : Word), v.getLsbD 1 = false → s.busWrite 0x00C v = { s with irqEn := v.getLsbD 0 }) ∧
  ∀ (s : State) (v : Word), s.params.legal = true → s.pending = false →
    s.busWrite 0x018 v = { s with hrpLen := v.extractLsb' 0 16 } ∧
    s.busWrite 0x01C v = { s with srcLen := v.extractLsb' 0 16 } ∧
    s.busWrite 0x024 v = { s with chk := v.extractLsb' 0 30 } ∧
    (∀ j, 4 * j < s.params.ibufSize →
      (s.busWrite (0x1000 + 4 * j) v).readWord (0x1000 + 4 * j) = v ∧
      (∀ k < 4, (s.busWrite (0x1000 + 4 * j) v).inBuf.byte (4 * j + k) = v.extractLsb' (8 * k) 8) ∧
      (∀ i, i < 4 * j ∨ 4 * j + 4 ≤ i → (s.busWrite (0x1000 + 4 * j) v).inBuf.byte i = s.inBuf.byte i) ∧
      s.busWrite (0x1000 + 4 * j) v = { s with inBuf := (s.busWrite (0x1000 + 4 * j) v).inBuf })

/-- The registers read as their fields (10_state.md R23 to R33): ID, CAPS, BUFSZ, CTRL, STATUS, CMD, HRP_LEN, SRC_LEN,
DST_LEN, CHK, CKSUM; every bit above a register's fields, and every reserved bit of STATUS, is 0. -/
def Obligations.RegistersReadAsTheirFields : Prop :=
  ∀ s : State, s.params.legal = true →
    s.readWord 0x000 = 0x42433332 ∧
    (s.readWord 0x004).toNat = s.params.hasB58.toNat + 2 * s.params.hasEcmul.toNat ∧
    (s.readWord 0x008).toNat = s.params.ibufSize + 65536 * s.params.obufSize ∧
    (s.readWord 0x00C).toNat = s.irqEn.toNat ∧
    (s.readWord 0x010).toNat = s.pending.toNat + 2 * s.status.done.toNat + 4 * s.status.err.toNat +
      8 * s.status.ovr.toNat + 256 * s.status.errcode.toNat + 65536 * s.status.lastop.toNat ∧
    s.readWord 0x014 = 0 ∧
    (s.readWord 0x018).toNat = s.hrpLen.toNat ∧ (s.readWord 0x01C).toNat = s.srcLen.toNat ∧
    (s.readWord 0x020).toNat = s.dstLen.toNat ∧ (s.readWord 0x024).toNat = s.chk.toNat ∧
    (s.readWord 0x028).toNat = s.cksum.toNat

/-- Reads (70_reset_and_hazards.md R311, 20_memory.md R64): while a command is pending DST_LEN, CHK, CKSUM and the
OUT_BUF bytes read as a free word, a new draw at each read (log entry 2: the model's form of "any value"); a read at
every other offset, reserved or beyond OBUF_SIZE too, and every read while idle, is exact and changes nothing. -/
def Obligations.ResultReadsWhilePendingAreFree : Prop :=
  ∀ (s : State) (o : Nat),
    (s.pending = true →
      o = 0x020 ∨ o = 0x024 ∨ o = 0x028 ∨ (0x2000 ≤ o ∧ o < 0x3000 ∧ o - 0x2000 < s.params.obufSize) →
      s.busRead o = (Config.freeWord s.draws, { s with draws := s.draws + 1 })) ∧
    (s.pending = false ∨
        ¬ (o = 0x020 ∨ o = 0x024 ∨ o = 0x028 ∨ (0x2000 ≤ o ∧ o < 0x3000 ∧ o - 0x2000 < s.params.obufSize)) →
      s.busRead o = (s.readWord o, s))

/-- Reads have no side effect (20_memory.md R66): a read by the host leaves the whole block as it was; only the host
agent, the port's response and the count of draws differ. A label, an IF and an EXPECT make no bus access at all
(30_encoding.md R102), and an EXPECT on bound names goes on to the next statement, whether it holds or not. -/
def Obligations.ReadsLeaveTheBlockUnchanged : Prop :=
  (∀ (s t : State) (addr width n : Nat), hostStatement s (.rd addr width n) = .next t →
    t = { s with host := t.host, resp := t.resp, draws := t.draws }) ∧
  (∀ (s t : State) (l : Nat) (c : Cond),
    hostStatement s (.label l) = .next t ∨ hostStatement s (.ifGoto c l) = .next t ∨
      hostStatement s (.expect c) = .next t → t = { s with host := t.host }) ∧
  (∀ (s : State) (c : Cond) (holds : Bool), c.eval s.host.names s.irq = some holds →
    ∃ t, hostStatement s (.expect c) = .next t ∧ t.host.pos = s.host.pos + 1 ∧
      t.host.expectFailed = (s.host.expectFailed || !holds))

/-- While a command is pending a write of CMD, HRP_LEN, SRC_LEN, CHK or IN_BUF is dropped and sets OVR, and nothing
else changes; writes of CTRL and STATUS are not dropped (70_reset_and_hazards.md R310). -/
def Obligations.WritesWhilePendingAreDropped : Prop :=
  ∀ (s : State) (o : Nat) (v : Word), s.pending = true →
    (o = 0x014 ∨ o = 0x018 ∨ o = 0x01C ∨ o = 0x024 ∨
        (0x1000 ≤ o ∧ o < 0x2000 ∧ o - 0x1000 < s.params.ibufSize) →
      s.busWrite o v = { s with status := { s.status with ovr := true } }) ∧
    (v.getLsbD 1 = false → s.busWrite 0x00C v = { s with irqEn := v.getLsbD 0 }) ∧
    (v.getLsbD 1 = true → (s.busWrite 0x00C v).pending = false) ∧
    (v.getLsbD 3 = true → (s.busWrite 0x010 v).status.ovr = false)

/-- Reserved offsets read as zero and ignore writes; writes to read-only registers and to the OUT_BUF window are
ignored, even while BUSY, and never set OVR; reserved fields read as zero and ignore writes
(10_state.md R41). The offsets of the two buffer windows at and beyond the buffer's size are the same, idle or pending
(93_implementation_defined.md U9). -/
def Obligations.ReadOnlyAndReservedIgnoreWrites : Prop :=
  (∀ (s : State) (o : Nat) (v : Word),
    o = 0x000 ∨ o = 0x004 ∨ o = 0x008 ∨ o = 0x020 ∨ o = 0x028 ∨ (0x02C ≤ o ∧ o < 0x1000) ∨
      (0x2000 ≤ o ∧ o < 0x3000) → s.busWrite o v = s) ∧
  (∀ (s : State) (o : Nat), 0x02C ≤ o → o < 0x1000 → s.busRead o = (0, s)) ∧
  (∀ (s : State) (o : Nat) (v : Word), 0x1000 + s.params.ibufSize ≤ o → o < 0x2000 →
    s.busWrite o v = s ∧ s.busRead o = (0, s)) ∧
  (∀ (s : State) (o : Nat), 0x2000 + s.params.obufSize ≤ o → o < 0x3000 → s.busRead o = (0, s)) ∧
  (∀ (s : State) (v : Word), s.pending = false →
    ((s.busWrite 0x018 v).readWord 0x018).extractLsb' 16 16 = 0 ∧
    ((s.busWrite 0x01C v).readWord 0x01C).extractLsb' 16 16 = 0 ∧
    ((s.busWrite 0x024 v).readWord 0x024).extractLsb' 30 2 = 0) ∧
  (∀ (s : State) (v : Word),
    ((s.busWrite 0x00C v).readWord 0x00C).extractLsb' 1 31 = 0 ∧
    ((s.busWrite 0x010 v).readWord 0x010).extractLsb' 4 4 = 0 ∧
    ((s.busWrite 0x010 v).readWord 0x010).extractLsb' 12 4 = 0 ∧
    ((s.busWrite 0x010 v).readWord 0x010).extractLsb' 24 8 = 0)

/-- A STATUS write clears the W1C bits it names: DONE, ERR with ERRCODE, OVR; BUSY, LASTOP and all other state are
unchanged (20_memory.md R65, 10_state.md R27). This is the return from an error (60_exceptions.md R269). -/
def Obligations.StatusWriteClearsTheNamedBits : Prop :=
  ∀ (s : State) (v : Word),
    s.busWrite 0x010 v = { s with
      status := {
        done := if v.getLsbD 1 then false else s.status.done
        err := if v.getLsbD 2 then false else s.status.err
        ovr := if v.getLsbD 3 then false else s.status.ovr
        errcode := if v.getLsbD 2 then 0 else s.status.errcode
        lastop := s.status.lastop } }

/-- IRQ is IRQ_EN & (DONE | OVR); it is low after the host clears DONE and OVR, or clears IRQ_EN
(10_state.md R38). -/
def Obligations.IrqFollowsEnableDoneAndOvr : Prop :=
  ∀ s : State,
    (s.irq = true ↔ s.irqEn = true ∧ (s.status.done = true ∨ s.status.ovr = true)) ∧
    (s.busWrite 0x010 0x0000000A).irq = false ∧ (s.busWrite 0x00C 0x00000000).irq = false

/-- An access outside the window does not reach the block: only the port's response and the count of draws differ
(20_memory.md R68; log entry 8). In the window an access that is not 4 bytes wide, or is misaligned, is a fault of
the host's step (20_memory.md R62, R63); every other gets the OKAY response and does what busWrite and busRead do at
its offset, the read data being busRead's (R64, R65). A host `WR` is that write and a host `RD` that read, binding the
data to its name and no other (30_encoding.md R102). -/
def Obligations.AccessesAreAlignedWordsInTheWindow : Prop :=
  (∀ (s : State) (addr width : Nat) (d : BusDir),
    (addr < s.params.base ∨ s.params.base + 0x3000 ≤ addr → ∃ t, busTransact s addr width d = .next t ∧
      t = { s with resp := t.resp, draws := t.draws }) ∧
    (s.params.base ≤ addr → addr < s.params.base + 0x3000 →
      (width ≠ 4 → busTransact s addr width d = .fault .busErrorWidth) ∧
      (width = 4 → (addr - s.params.base) % 4 ≠ 0 → busTransact s addr width d = .fault .busErrorAlign))) ∧
  (∀ (s : State) (addr : Nat), s.params.base ≤ addr → addr < s.params.base + 0x3000 →
    (addr - s.params.base) % 4 = 0 →
    let o := addr - s.params.base
    (∀ v, busTransact s addr 4 (.write v) = .next { s.busWrite o v with resp := some (.okay none) }) ∧
    busTransact s addr 4 .read = .next { (s.busRead o).2 with resp := some (.okay (some (s.busRead o).1)) } ∧
    (∀ e v, e.eval s.host.names = some v → hostStatement s (.wr addr 4 e) =
      .next { s.busWrite o v with resp := some (.okay none), host := { s.host with pos := s.host.pos + 1 } }) ∧
    (∀ n, hostStatement s (.rd addr 4 n) =
      .next { (s.busRead o).2 with
        resp := some (.okay (some (s.busRead o).1))
        host := { s.host with
          pos := s.host.pos + 1, names := bindName s.host.names n (s.busRead o).1 } })) ∧
  (∀ (names : List (Nat × Word)) (n m : Nat) (v : Word),
    lookupName (bindName names n v) m = if m = n then some v else lookupName names m)

/-! ### Resets -/

/-- The soft reset by a CTRL write with SRST = 1 (70_reset_and_hazards.md R301): the registers at the reset table,
IN_BUF and OUT_BUF unchanged when nothing was pending; after an abandoned command every OUT_BUF byte is free, and
every IN_BUF byte too if its OP was ZEROIZE's (log entry 1: the model's form of "any byte value"). -/
def Obligations.SoftResetRestoresTheTable : Prop :=
  ∀ (s : State) (v : Word), v.getLsbD 1 = true →
    ∃ t, s.busWrite 0x00C v = t ∧ t.pending = false ∧ t.cmd = 0 ∧ t.irqEn = false ∧ t.statusWord = 0 ∧
      t.hrpLen = 0 ∧ t.srcLen = 0 ∧ t.dstLen = 0 ∧ t.chk = 1 ∧ t.cksum = 0 ∧ t.params = s.params ∧
      t.host = s.host ∧ t.turns = s.turns ∧ t.resp = s.resp ∧
      (s.pending = false → t.inBuf = s.inBuf ∧ t.outBuf = s.outBuf) ∧
      (s.pending = true → (∀ i, t.outBuf.byte i = Config.freeByte s.draws i) ∧
        (s.cmd.extractLsb' 0 8 ≠ 0x30 → t.inBuf = s.inBuf) ∧
        (s.cmd.extractLsb' 0 8 = 0x30 → ∀ i, t.inBuf.byte i = Config.freeByte (s.draws + 1) i))

/-- Power-on reset (10_state.md R40, 70_reset_and_hazards.md R300): from every state the reset input leaves the
values of the reset table, and the buffers unspecified, each byte a free value of its own draw (log entry 1). -/
def Obligations.PowerOnResetRestoresTheTable : Prop :=
  ∀ s : State, s.mover = .powerOn →
    ∃ t, step s = .next t ∧ t.pending = false ∧ t.cmd = 0 ∧ t.readWord 0x00C = 0 ∧ t.readWord 0x010 = 0 ∧
      t.readWord 0x018 = 0 ∧ t.readWord 0x01C = 0 ∧ t.readWord 0x020 = 0 ∧ t.readWord 0x024 = 1 ∧
      t.readWord 0x028 = 0 ∧ t.irq = false ∧ t.params = s.params ∧
      (∀ i, t.inBuf.byte i = Config.freeByte s.draws i) ∧
      (∀ i, t.outBuf.byte i = Config.freeByte (s.draws + 1) i)

/-- The state after reset has the register values of the reset table for this hardware (10_state.md R40). -/
def Obligations.ResetStateMatchesTheTable : Prop :=
  State.reset.readWord 0x000 = 0x42433332 ∧ State.reset.readWord 0x004 = 0x00000003 ∧
  State.reset.readWord 0x008 = 0x01000100 ∧ State.reset.readWord 0x00C = 0 ∧ State.reset.readWord 0x010 = 0 ∧
  State.reset.readWord 0x018 = 0 ∧ State.reset.readWord 0x01C = 0 ∧ State.reset.readWord 0x020 = 0 ∧
  State.reset.readWord 0x024 = 1 ∧ State.reset.readWord 0x028 = 0 ∧ State.reset.pending = false ∧
  State.reset.cmd = 0 ∧ State.reset.irq = false

/-! ### Rules of the whole machine -/

/-- Every step from a good state leads to a good state: legal parameters, STATUS consistent with the hidden state,
both buffers canonical, the free draws independent. -/
def Obligations.EveryStepKeepsTheInvariant : Prop :=
  ∀ s t : State, s.inv = true → step s = .next t → t.inv = true

/-- The state after reset is good. -/
def Obligations.ResetMeetsTheInvariant : Prop := State.reset.inv = true

/-- No command writes IN_BUF, HRP_LEN or SRC_LEN except ZEROIZE (10_state.md R34, 44_control.md R241). -/
def Obligations.OnlyZeroizeWritesTheOperands : Prop :=
  ∀ (i : Instr) (s t : State), i ≠ .zeroize → exec i s = .next t →
    t.inBuf = s.inBuf ∧ t.hrpLen = s.hrpLen ∧ t.srcLen = s.srcLen

/-- No step changes ID, CAPS or BUFSZ, or anything else the parameters fix (10_state.md R23 to R25). -/
def Obligations.IdentityNeverChanges : Prop :=
  ∀ s t : State, step s = .next t →
    t.params = s.params ∧ t.readWord 0x000 = s.readWord 0x000 ∧ t.readWord 0x004 = s.readWord 0x004 ∧
      t.readWord 0x008 = s.readWord 0x008

/-- OVR is sticky (60_exceptions.md R265, 10_state.md R27): a step that clears it is a power-on reset, or a host
write, in the window, of STATUS with bit 3 set or of CTRL with bit 1 set. -/
def Obligations.OvrIsClearedOnlyByTheHostOrAReset : Prop :=
  ∀ s t : State, step s = .next t → s.status.ovr = true → t.status.ovr = false →
    s.mover = .powerOn ∨
    (s.mover = .host ∧ ∃ o e v, s.host.prog[s.host.pos]? = some (.wr (s.params.base + o) 4 e) ∧
      e.eval s.host.names = some v ∧
      ((o = 0x010 ∧ v.getLsbD 3 = true) ∨ (o = 0x00C ∧ v.getLsbD 1 = true)))

/-- A command starts only by a host write of CMD while idle (10_state.md R28): a step that makes the block busy is
that write, and the latched word is the word written. -/
def Obligations.CommandsStartOnlyByACmdWrite : Prop :=
  ∀ s t : State, step s = .next t → s.pending = false → t.pending = true →
    s.mover = .host ∧ ∃ e v, s.host.prog[s.host.pos]? = some (.wr (s.params.base + 0x014) 4 e) ∧
      e.eval s.host.names = some v ∧ t.cmd = v ∧ t.status.lastop = v.extractLsb' 0 8

/-- A command's results are a pure function of the registers and of the regions H and D at its acceptance
(00_scope.md R6): two good states that agree on these, and on the results they held before, agree on OUT_BUF,
DST_LEN, CHK, CKSUM and the outcome after it, whatever IN_BUF holds elsewhere and whatever the rest is. -/
def Obligations.ResultsAreAFunctionOfTheOperands : Prop :=
  ∀ (i : Instr) (s u t w : State), s.inFlight → u.inFlight →
    s.params = u.params → s.hrpLen = u.hrpLen → s.srcLen = u.srcLen →
    s.regionH = u.regionH → s.regionD = u.regionD →
    s.chk = u.chk → s.cksum = u.cksum → s.dstLen = u.dstLen → s.outBuf = u.outBuf →
    exec i s = .next t → exec i u = .next w →
    t.outBuf = w.outBuf ∧ t.dstLen = w.dstLen ∧ t.chk = w.chk ∧ t.cksum = w.cksum ∧
      t.status.err = w.status.err ∧ t.status.errcode = w.status.errcode ∧ t.status.done = w.status.done

/-- Nothing that was in the block before ZEROIZE can be read after it (44_control.md R241): two good states with the
same parameters, whatever else they hold, read the same at every aligned offset but those of CTRL and STATUS. -/
def Obligations.ZeroizeLeavesNoSecret : Prop :=
  ∀ s u t w : State, s.inFlight → u.inFlight → s.params = u.params →
    exec .zeroize s = .next t → exec .zeroize u = .next w →
    ∀ o, o % 4 = 0 → o ≠ 0x00C → o ≠ 0x010 → t.readWord o = w.readWord o

/-- A pending command completes or is abandoned within one step more than the moves still ordered, unless the host's
own step faults (00_scope.md R18, 70_reset_and_hazards.md R321; the bound is the model's, log entry 5). -/
def Obligations.PendingCommandsEnd : Prop :=
  ∀ s : State, s.pending = true →
    ∃ k, k ≤ s.turns.length + 1 ∧
      ((∃ t, Host.Core.run Sys2Proof.core k s = .next t ∧ t.pending = false) ∨
       (∃ f, Host.Core.run Sys2Proof.core k s = .fault f))

/-- LOAD (30_encoding.md R103): run by the host on an idle block, its expansion writes the bytes from IN_BUF[k] on and
zeros into the unused lanes of its last word, and leaves every other byte of IN_BUF as it was. -/
def Obligations.LoadWritesBytesAndZeroLanes : Prop :=
  ∀ (s : State) (k : Nat) (bs : List Byte), s.params.legal = true → s.pending = false → s.turns = [] →
    s.host.pos = 0 → s.host.prog = pseudoLOAD s.params.base k bs → k % 4 = 0 →
    k + 4 * ((bs.length + 3) / 4) ≤ s.params.ibufSize →
    ∃ t, Host.Core.run Sys2Proof.core ((bs.length + 3) / 4) s = .next t ∧
      (∀ i < 4 * ((bs.length + 3) / 4), t.inBuf.byte (k + i) = bs.getD i 0) ∧
      (∀ i, i < k ∨ k + 4 * ((bs.length + 3) / 4) ≤ i → t.inBuf.byte i = s.inBuf.byte i) ∧
      t = { s with inBuf := t.inBuf, host := t.host, resp := t.resp }
end

