-- ==== Sys2Proof/Laws/Primes.lean ====
section
/-! SUPPORT. The two primes of secp256k1 (43_secp256k1.md R210): the field prime p and the group order n, each by
Lucas's test with the prime factors of its predecessor. -/

namespace Sys2Proof.Machine

-- The long evaluations run one after another, so that no queue of waiting threads builds up behind them.
set_option Elab.async false

/-- `b ^ e` mod `m` by squaring, for an exponent of at most `fuel` bits. -/
def powMod (m : Nat) : Nat → Nat → Nat → Nat
  | 0, _, _ => 1
  | fuel + 1, b, e =>
    if e = 0 then 1
    else if e % 2 = 1 then b * powMod m fuel (b * b % m) (e / 2) % m
    else powMod m fuel (b * b % m) (e / 2)

theorem powMod_cast (m fuel b e : Nat) (he : e < 2 ^ fuel) : (powMod m fuel b e : ZMod m) = (b : ZMod m) ^ e := by
  induction fuel generalizing b e with
  | zero =>
    obtain rfl : e = 0 := by simpa using he
    simp [powMod]
  | succ fuel ih =>
    have hlt : e / 2 < 2 ^ fuel := by rw [pow_succ] at he; omega
    have hsq : ((b * b % m : Nat) : ZMod m) = (b : ZMod m) ^ 2 := by rw [ZMod.natCast_mod]; push_cast; ring
    rw [powMod]
    split
    · simp_all
    · split
      · rename_i h1
        rw [ZMod.natCast_mod, Nat.cast_mul, ih _ _ hlt, hsq, ← pow_mul, ← pow_succ']
        congr 1
        omega
      · rename_i h1
        rw [ih _ _ hlt, hsq, ← pow_mul]
        congr 1
        omega

/-- Lucas's test in a form the kernel can evaluate: `fs` are the prime factors of p - 1, with repetition. -/
theorem prime_of_certificate {p : Nat} (a : Nat) (fs : List Nat) (hp : 1 < p) (hbits : p < 2 ^ 256)
    (hprod : fs.prod = p - 1) (hfs : fs.Forall Nat.Prime) (h1 : powMod p 256 a (p - 1) % p = 1)
    (hne : ∀ f ∈ fs, powMod p 256 a ((p - 1) / f) % p ≠ 1) : p.Prime := by
  have : Fact (1 < p) := ⟨hp⟩
  have cast : ∀ e, e < 2 ^ 256 → ((a : ZMod p) ^ e = 1 ↔ powMod p 256 a e % p = 1) := by
    intro e he
    rw [← powMod_cast p 256 a e he, ← Nat.cast_one, ZMod.natCast_eq_natCast_iff', Nat.mod_eq_of_lt hp]
  refine lucas_primality p (a : ZMod p) ((cast _ (by omega)).mpr h1) fun q hq hdvd => ?_
  obtain ⟨f, hf, hqf⟩ := hq.prime.dvd_prod_iff.mp (hprod ▸ hdvd)
  obtain rfl := (Nat.prime_dvd_prime_iff_eq hq (List.forall_iff_forall_mem.mp hfs f hf)).mp hqf
  exact fun h => hne q hf ((cast _ (lt_of_le_of_lt (Nat.div_le_self _ _) (by omega))).mp h)


theorem prime_173378833005251801 : Nat.Prime 173378833005251801 :=
  prime_of_certificate 6 [2, 2, 2, 5, 5, 2621, 24809, 13331831] (by decide +kernel) (by decide +kernel) (by decide +kernel)
    ⟨by norm_num, by norm_num, by norm_num, by norm_num, by norm_num, by norm_num, by norm_num, by norm_num⟩
    (by decide +kernel) (by decide +kernel)

theorem prime_22149492674086928081353 : Nat.Prime 22149492674086928081353 :=
  prime_of_certificate 5 [2, 2, 2, 3, 5323, 173378833005251801] (by decide +kernel) (by decide +kernel) (by decide +kernel)
    ⟨by norm_num, by norm_num, by norm_num, by norm_num, by norm_num, prime_173378833005251801⟩
    (by decide +kernel) (by decide +kernel)

theorem prime_132896956044521568488119 : Nat.Prime 132896956044521568488119 :=
  prime_of_certificate 6 [2, 3, 22149492674086928081353] (by decide +kernel) (by decide +kernel) (by decide +kernel)
    ⟨by norm_num, by norm_num, prime_22149492674086928081353⟩
    (by decide +kernel) (by decide +kernel)

theorem prime_255515944373312847190720520512484175977 : Nat.Prime 255515944373312847190720520512484175977 :=
  prime_of_certificate 3 [2, 2, 2, 7, 7, 11, 1627, 2657, 4423, 41201, 96557, 7240687, 107590001] (by decide +kernel) (by decide +kernel) (by decide +kernel)
    ⟨by norm_num, by norm_num, by norm_num, by norm_num, by norm_num, by norm_num, by norm_num, by norm_num, by norm_num, by norm_num, by norm_num, by norm_num, by norm_num⟩
    (by decide +kernel) (by decide +kernel)

theorem prime_205115282021455665897114700593932402728804164701536103180137503955397371 : Nat.Prime 205115282021455665897114700593932402728804164701536103180137503955397371 :=
  prime_of_certificate 10 [2, 3, 5, 29, 29, 31, 7723, 132896956044521568488119, 255515944373312847190720520512484175977] (by decide +kernel) (by decide +kernel) (by decide +kernel)
    ⟨by norm_num, by norm_num, by norm_num, by norm_num, by norm_num, by norm_num, by norm_num, prime_132896956044521568488119, prime_255515944373312847190720520512484175977⟩
    (by decide +kernel) (by decide +kernel)

theorem prime_107361793816595537 : Nat.Prime 107361793816595537 :=
  prime_of_certificate 3 [2, 2, 2, 2, 16699, 85831, 4681609] (by decide +kernel) (by decide +kernel) (by decide +kernel)
    ⟨by norm_num, by norm_num, by norm_num, by norm_num, by norm_num, by norm_num, by norm_num⟩
    (by decide +kernel) (by decide +kernel)

theorem prime_174723607534414371449 : Nat.Prime 174723607534414371449 :=
  prime_of_certificate 3 [2, 2, 2, 17, 59, 4051, 120233, 44706919] (by decide +kernel) (by decide +kernel) (by decide +kernel)
    ⟨by norm_num, by norm_num, by norm_num, by norm_num, by norm_num, by norm_num, by norm_num, by norm_num⟩
    (by decide +kernel) (by decide +kernel)

theorem prime_297159362677 : Nat.Prime 297159362677 :=
  prime_of_certificate 2 [2, 2, 3, 3, 11, 461, 1627771] (by decide +kernel) (by decide +kernel) (by decide +kernel)
    ⟨by norm_num, by norm_num, by norm_num, by norm_num, by norm_num, by norm_num, by norm_num⟩
    (by decide +kernel) (by decide +kernel)

theorem prime_545358713 : Nat.Prime 545358713 :=
  prime_of_certificate 5 [2, 2, 2, 41, 59, 28181] (by decide +kernel) (by decide +kernel) (by decide +kernel)
    ⟨by norm_num, by norm_num, by norm_num, by norm_num, by norm_num, by norm_num⟩
    (by decide +kernel) (by decide +kernel)

theorem prime_29047611873442575647497758179 : Nat.Prime 29047611873442575647497758179 :=
  prime_of_certificate 2 [2, 293, 305873, 545358713, 297159362677] (by decide +kernel) (by decide +kernel) (by decide +kernel)
    ⟨by norm_num, by norm_num, by norm_num, prime_545358713, prime_297159362677⟩
    (by decide +kernel) (by decide +kernel)

theorem prime_341948486974166000522343609283189 : Nat.Prime 341948486974166000522343609283189 :=
  prime_of_certificate 2 [2, 2, 3, 3, 3, 109, 29047611873442575647497758179] (by decide +kernel) (by decide +kernel) (by decide +kernel)
    ⟨by norm_num, by norm_num, by norm_num, by norm_num, by norm_num, by norm_num, prime_29047611873442575647497758179⟩
    (by decide +kernel) (by decide +kernel)

/-- p is prime (43_secp256k1.md R210, R211: GF(p)). -/
theorem fieldPrime_prime : Nat.Prime fieldPrime :=
  prime_of_certificate 3 [2, 3, 7, 13441, 205115282021455665897114700593932402728804164701536103180137503955397371] (by decide +kernel) (by decide +kernel) (by decide +kernel)
    ⟨by norm_num, by norm_num, by norm_num, by norm_num, prime_205115282021455665897114700593932402728804164701536103180137503955397371⟩
    (by decide +kernel) (by decide +kernel)

/-- n is prime (43_secp256k1.md R214: "G has prime order n"). -/
theorem curveOrder_prime : Nat.Prime curveOrder :=
  prime_of_certificate 7 [2, 2, 2, 2, 2, 2, 3, 149, 631, 107361793816595537, 174723607534414371449, 341948486974166000522343609283189] (by decide +kernel) (by decide +kernel) (by decide +kernel)
    ⟨by norm_num, by norm_num, by norm_num, by norm_num, by norm_num, by norm_num, by norm_num, by norm_num, by norm_num, prime_107361793816595537, prime_174723607534414371449, prime_341948486974166000522343609283189⟩
    (by decide +kernel) (by decide +kernel)

end Sys2Proof.Machine
end

