-- ==== Sys2Proof/Laws/Curve.lean ====
section
/-! SUPPORT. The model's points are the points of Mathlib's curve y^2 = x^3 + 7 over ZMod p, and `pointAdd` is its
group law (43_secp256k1.md R210, R211). So the group laws hold of the model's points. -/

namespace Sys2Proof.Machine

open WeierstrassCurve.Affine

/-- secp256k1 over ZMod p (43_secp256k1.md R210). -/
def curve : WeierstrassCurve.Affine (ZMod fieldPrime) := ⟨0, 0, 0, 0, 7⟩

/-- `P` is the model's form of the curve's point `Q`. -/
def Represents [Fact (Nat.Prime fieldPrime)] (P : Point) (Q : curve.Point) : Prop :=
  match P with
  | .infinity => Q = 0
  | .affine x y =>
    x < fieldPrime ∧ y < fieldPrime ∧
      ∃ h : curve.Nonsingular (x : ZMod fieldPrime) (y : ZMod fieldPrime), Q = .some _ _ h

/-! ### The field -/

theorem fieldPrime_pos : 0 < fieldPrime := by decide +kernel

theorem fieldSub_lt (a b : Nat) : fieldSub a b < fieldPrime := Nat.mod_lt _ fieldPrime_pos

theorem fieldSub_cast (a b : Nat) : (fieldSub a b : ZMod fieldPrime) = a - b := by
  have hb : b % fieldPrime ≤ fieldPrime := (Nat.mod_lt _ fieldPrime_pos).le
  rw [fieldSub, ZMod.natCast_mod, Nat.cast_add, Nat.cast_sub hb, ZMod.natCast_mod, ZMod.natCast_self]
  ring

theorem fieldPow_eq_powMod (fuel b e : Nat) : fieldPow fuel b e = powMod fieldPrime fuel b e := by
  induction fuel generalizing b e with
  | zero => rfl
  | succ fuel ih => simp only [fieldPow, powMod, ih]

theorem natCast_eq_of_lt {a b : Nat} (ha : a < fieldPrime) (hb : b < fieldPrime)
    (h : (a : ZMod fieldPrime) = b) : a = b := by
  rwa [ZMod.natCast_eq_natCast_iff', Nat.mod_eq_of_lt ha, Nat.mod_eq_of_lt hb] at h

/-- G is on the curve (43_secp256k1.md R210). -/
theorem pointG_onCurve : pointG.onCurve = true := by decide +kernel

variable [hprime : Fact (Nat.Prime fieldPrime)]

theorem fieldInv_cast (a : Nat) : (fieldInv a : ZMod fieldPrime) = (a : ZMod fieldPrime)⁻¹ := by
  have hlt : fieldPrime - 2 < 2 ^ 256 := by decide +kernel
  rw [fieldInv, fieldPow_eq_powMod, powMod_cast _ _ _ _ hlt]
  by_cases ha : (a : ZMod fieldPrime) = 0
  · rw [ha, inv_zero, zero_pow (by decide +kernel)]
  · refine eq_inv_of_mul_eq_one_left ?_
    rw [← pow_succ, show fieldPrime - 2 + 1 = fieldPrime - 1 by decide +kernel]
    exact ZMod.pow_card_sub_one_eq_one ha

/-! ### The curve -/

theorem curve_equation (x y : ZMod fieldPrime) : curve.Equation x y ↔ y ^ 2 = x ^ 3 + 7 := by
  rw [equation_iff]
  simp [curve]

theorem curve_negY (x y : ZMod fieldPrime) : curve.negY x y = -y := by
  simp [negY, curve]

/-- The curve is smooth: every solution of its equation is a nonsingular point. -/
theorem curve_nonsingular (x y : ZMod fieldPrime) (h : curve.Equation x y) : curve.Nonsingular x y := by
  refine (equation_iff_nonsingular_of_Δ_ne_zero ?_).mp h
  have : curve.Δ = ((fieldPrime - 21168 : Nat) : ZMod fieldPrime) := by
    rw [Nat.cast_sub (by decide +kernel), ZMod.natCast_self]
    simp [WeierstrassCurve.Δ, WeierstrassCurve.b₂, WeierstrassCurve.b₄, WeierstrassCurve.b₆, WeierstrassCurve.b₈,
      curve]
    norm_num
  rw [this, Ne, ZMod.natCast_eq_zero_iff]
  decide +kernel

/-- Every point the model calls on the curve represents a point of the curve. -/
theorem represents_of_onCurve {P : Point} (h : P.onCurve = true) : ∃ Q, Represents P Q := by
  cases P with
  | infinity => exact ⟨0, rfl⟩
  | affine x y =>
    simp only [Point.onCurve, Bool.and_eq_true, decide_eq_true_eq, beq_iff_eq] at h
    refine ⟨_, h.1.1, h.1.2, curve_nonsingular _ _ ((curve_equation _ _).mpr ?_), rfl⟩
    have := (ZMod.natCast_eq_natCast_iff' _ _ _).mpr h.2
    push_cast at this
    linear_combination this

/-- A point that represents a point of the curve is on the curve. -/
theorem onCurve_of_represents {P : Point} {Q : curve.Point} (h : Represents P Q) : P.onCurve = true := by
  cases P with
  | infinity => rfl
  | affine x y =>
    obtain ⟨hx, hy, hn, -⟩ := h
    simp only [Point.onCurve, Bool.and_eq_true, decide_eq_true_eq, beq_iff_eq]
    refine ⟨⟨hx, hy⟩, ?_⟩
    rw [← ZMod.natCast_eq_natCast_iff']
    push_cast
    linear_combination (curve_equation _ _).mp hn.left

/-- Two points of the model that represent the same point are the same. -/
theorem represents_injective {P P' : Point} {Q : curve.Point} (h : Represents P Q) (h' : Represents P' Q) :
    P = P' := by
  cases P with
  | infinity =>
    cases P' with
    | infinity => rfl
    | affine x y =>
      obtain ⟨-, -, hn, hq⟩ := h'
      rw [show Q = 0 from h] at hq
      exact absurd hq.symm (Point.some_ne_zero hn)
  | affine x y =>
    obtain ⟨hx, hy, hn, rfl⟩ := h
    cases P' with
    | infinity => exact absurd (show Point.some _ _ hn = 0 from h') (Point.some_ne_zero hn)
    | affine x' y' =>
      obtain ⟨hx', hy', hn', hq⟩ := h'
      injection hq with h1 h2
      rw [natCast_eq_of_lt hx hx' h1, natCast_eq_of_lt hy hy' h2]

/-- The chord or tangent construction of the model is the curve's. -/
theorem represents_chordPoint {x1 y1 x2 : Nat} {y2 : ZMod fieldPrime} {lam : Nat}
    (h1 : curve.Nonsingular (x1 : ZMod fieldPrime) (y1 : ZMod fieldPrime))
    (h2 : curve.Nonsingular (x2 : ZMod fieldPrime) y2)
    (hxy : ¬((x1 : ZMod fieldPrime) = x2 ∧ (y1 : ZMod fieldPrime) = curve.negY x2 y2))
    (hlam : (lam : ZMod fieldPrime) = curve.slope x1 x2 y1 y2) :
    Represents (chordPoint lam x1 y1 x2) (Point.some _ _ h1 + Point.some _ _ h2) := by
  have hX : ((fieldSub (fieldSub (lam * lam) x1) x2 : Nat) : ZMod fieldPrime) =
      curve.addX x1 x2 (curve.slope x1 x2 y1 y2) := by
    simp only [fieldSub_cast, Nat.cast_mul, hlam, addX, curve]
    ring
  have hY : ((fieldSub (lam * fieldSub x1 (fieldSub (fieldSub (lam * lam) x1) x2)) y1 : Nat) : ZMod fieldPrime) =
      curve.addY x1 x2 y1 (curve.slope x1 x2 y1 y2) := by
    rw [addY, negAddY, curve_negY, ← hX]
    simp only [fieldSub_cast, Nat.cast_mul, hlam]
    ring
  refine ⟨fieldSub_lt _ _, fieldSub_lt _ _, ?_, ?_⟩
  · rw [hX, hY]
    exact nonsingular_add h1 h2 hxy
  · rw [Point.add_some hxy]
    simp only [hX, hY]

/-- `pointAdd` is the group law of the curve (43_secp256k1.md R211). -/
theorem represents_pointAdd {P P' : Point} {Q Q' : curve.Point} (h : Represents P Q) (h' : Represents P' Q') :
    Represents (pointAdd P P') (Q + Q') := by
  cases P with
  | infinity =>
    rw [show Q = 0 from h, zero_add]
    simpa [pointAdd] using h'
  | affine x1 y1 =>
    cases P' with
    | infinity =>
      rw [show Q' = 0 from h', add_zero]
      exact h
    | affine x2 y2 =>
      obtain ⟨hx1, hy1, hn1, rfl⟩ := h
      obtain ⟨hx2, hy2, hn2, rfl⟩ := h'
      have hxiff : (x1 : ZMod fieldPrime) = x2 ↔ x1 = x2 := ⟨natCast_eq_of_lt hx1 hx2, fun e => by rw [e]⟩
      have hyiff : (y1 : ZMod fieldPrime) = curve.negY x2 y2 ↔ (y1 + y2) % fieldPrime = 0 := by
        rw [curve_negY, eq_neg_iff_add_eq_zero, ← Nat.cast_add, ZMod.natCast_eq_zero_iff, Nat.dvd_iff_mod_eq_zero]
      have hiff : ((x1 : ZMod fieldPrime) = x2 ∧ (y1 : ZMod fieldPrime) = curve.negY x2 y2) ↔
          (x1 = x2 ∧ (y1 + y2) % fieldPrime = 0) := and_congr hxiff hyiff
      simp only [pointAdd]
      split
      · rename_i hopp
        have := hiff.mpr hopp
        exact Point.add_of_Y_eq this.1 this.2
      · rename_i hopp
        have hxy := mt hiff.mp hopp
        split
        · rename_i hsame
          obtain ⟨rfl, rfl⟩ := hsame
          refine represents_chordPoint hn1 hn2 hxy ?_
          rw [slope_of_Y_ne rfl (fun e => hxy ⟨rfl, e⟩), curve_negY, ZMod.natCast_mod, Nat.cast_mul, fieldInv_cast,
            ZMod.natCast_mod]
          simp only [curve]
          push_cast
          rw [div_eq_mul_inv]
          ring_nf
        · rename_i hsame
          refine represents_chordPoint hn1 hn2 hxy ?_
          have hne : (x1 : ZMod fieldPrime) ≠ x2 := by
            intro e
            have hx := hxiff.mp e
            have hy := Y_eq_of_Y_ne hn1.left hn2.left e (fun e' => hxy ⟨e, e'⟩)
            exact hsame ⟨hx, natCast_eq_of_lt hy1 hy2 hy⟩
          rw [slope_of_X_ne hne, ZMod.natCast_mod, Nat.cast_mul, fieldInv_cast, fieldSub_cast, fieldSub_cast,
            ← div_eq_mul_inv, ← neg_sub (y1 : ZMod fieldPrime), ← neg_sub (x1 : ZMod fieldPrime), neg_div_neg_eq]

/-- The group law is closed on the curve. -/
theorem onCurve_pointAdd {P P' : Point} (h : P.onCurve = true) (h' : P'.onCurve = true) :
    (pointAdd P P').onCurve = true := by
  obtain ⟨Q, hQ⟩ := represents_of_onCurve h
  obtain ⟨Q', hQ'⟩ := represents_of_onCurve h'
  exact onCurve_of_represents (represents_pointAdd hQ hQ')

/-- The group law is associative on the curve. -/
theorem pointAdd_assoc {P P' P'' : Point} (h : P.onCurve = true) (h' : P'.onCurve = true)
    (h'' : P''.onCurve = true) : pointAdd (pointAdd P P') P'' = pointAdd P (pointAdd P' P'') := by
  obtain ⟨Q, hQ⟩ := represents_of_onCurve h
  obtain ⟨Q', hQ'⟩ := represents_of_onCurve h'
  obtain ⟨Q'', hQ''⟩ := represents_of_onCurve h''
  refine represents_injective (represents_pointAdd (represents_pointAdd hQ hQ') hQ'') ?_
  rw [add_assoc]
  exact represents_pointAdd hQ (represents_pointAdd hQ' hQ'')

end Sys2Proof.Machine
end

