-- ==== Sys2Proof/Laws/Memory.lean ====
section
/-! SUPPORT. The buffers: a read after a write gives what was written, a write leaves every other byte alone, and
every operation keeps the canonical form. -/

namespace Sys2Proof.Machine

/-! ### Runs of cells -/

theorem cellsFrom_length (i : Nat) (bs : List Byte) : (cellsFrom i bs).length = bs.length := by
  induction bs generalizing i with
  | nil => rfl
  | cons b bs ih => simp [cellsFrom, ih]

theorem mem_cellsFrom {i : Nat} {bs : List Byte} {c : Host.Cell} (h : c ∈ cellsFrom i bs) :
    i ≤ c.1 ∧ c.1 < i + bs.length := by
  induction bs generalizing i with
  | nil => simp [cellsFrom] at h
  | cons b bs ih =>
    rcases List.mem_cons.mp h with rfl | h
    · simp
    · have := ih h
      simp only [List.length_cons]
      omega

theorem lookup_cellsFrom (i : Nat) (bs : List Byte) (a : Nat) :
    (cellsFrom i bs).lookup a = if i ≤ a then bs[a - i]? else none := by
  induction bs generalizing i with
  | nil => simp [cellsFrom]
  | cons b bs ih =>
    simp only [cellsFrom, List.lookup_cons, ih]
    rcases Nat.lt_trichotomy a i with h | rfl | h
    · have : (a == i) = false := by simp; omega
      simp [this, show ¬ i ≤ a by omega, show ¬ i + 1 ≤ a by omega]
    · simp
    · have : (a == i) = false := by simp; omega
      obtain ⟨k, rfl⟩ : ∃ k, a = i + 1 + k := ⟨a - (i + 1), by omega⟩
      simp [this, show i + 1 + k - i = k + 1 by omega, show i ≤ i + 1 + k by omega]

theorem lookup_filter_keys (q : Nat → Bool) (cs : List Host.Cell) (a : Nat) :
    (cs.filter (fun c => q c.1)).lookup a = if q a then cs.lookup a else none := by
  induction cs with
  | nil => simp
  | cons c cs ih =>
    obtain ⟨k, b⟩ := c
    by_cases hk : a = k
    · subst hk
      by_cases hq : q a
      · simp [hq]
      · simp only [Bool.not_eq_true] at hq
        simp [hq, ih]
    · have hk' : (a == k) = false := beq_eq_false_iff_ne.mpr hk
      by_cases hq : q k
      · simp [hq, List.lookup_cons, hk', ih]
      · simp only [Bool.not_eq_true] at hq
        simp [hq, List.lookup_cons, hk', ih]

/-! ### Reading after writing -/

theorem Memory.lookup_writeRun (m : Memory) (i : Nat) (bs : List Byte) (a : Nat) :
    (m.writeRun i bs).cells.lookup a =
      if i ≤ a ∧ a < i + bs.length then bs[a - i]? else m.cells.lookup a := by
  simp only [Memory.writeRun, List.lookup_append, lookup_cellsFrom,
    lookup_filter_keys (fun k => decide (k < i)), lookup_filter_keys (fun k => decide (i + bs.length ≤ k))]
  rcases Nat.lt_or_ge a i with h | h
  · simp [h, show ¬ i ≤ a by omega, show ¬ i + bs.length ≤ a by omega]
  · rcases Nat.lt_or_ge a (i + bs.length) with h' | h'
    · have : a - i < bs.length := by omega
      simp [h, h', show ¬ a < i by omega, this]
    · have : bs.length ≤ a - i := by omega
      simp [h, show ¬ a < i by omega, show ¬ a < i + bs.length by omega, List.getElem?_eq_none this, h']

/-- A byte of the run just written reads as what was written. -/
theorem Memory.byte_writeRun_inside (m : Memory) (i : Nat) (bs : List Byte) {k : Nat} (h : k < bs.length) :
    (m.writeRun i bs).byte (i + k) = bs[k] := by
  simp [Memory.byte, Memory.lookup_writeRun, h]

/-- A byte outside the run just written reads as before. -/
theorem Memory.byte_writeRun_outside (m : Memory) (i : Nat) (bs : List Byte) {a : Nat}
    (h : a < i ∨ i + bs.length ≤ a) : (m.writeRun i bs).byte a = m.byte a := by
  have : ¬ (i ≤ a ∧ a < i + bs.length) := by omega
  simp only [Memory.byte, Memory.lookup_writeRun, if_neg this]
  rfl

@[simp] theorem Memory.length_bytes (m : Memory) (i n : Nat) : (m.bytes i n).length = n := by
  simp [Memory.bytes]

theorem Memory.getElem_bytes (m : Memory) (i n k : Nat) (h : k < (m.bytes i n).length) :
    (m.bytes i n)[k] = m.byte (i + k) := by
  simp [Memory.bytes]

/-- The run just written reads back. -/
theorem Memory.bytes_writeRun (m : Memory) (i : Nat) (bs : List Byte) :
    (m.writeRun i bs).bytes i bs.length = bs := by
  refine List.ext_getElem (by simp) fun k h _ => ?_
  rw [Memory.getElem_bytes, Memory.byte_writeRun_inside]

@[simp] theorem Memory.fill_writeRun (m : Memory) (i : Nat) (bs : List Byte) : (m.writeRun i bs).fill = m.fill := rfl

@[simp] theorem Memory.fill_zeros (m : Memory) (n : Nat) : (m.zeros n).fill = m.fill := rfl

@[simp] theorem Memory.fill_unspecified (d : Nat) : (Memory.unspecified d).fill = d := rfl

/-- Every byte of an unspecified buffer is the free byte of its index. -/
@[simp] theorem Memory.byte_unspecified (d i : Nat) : (Memory.unspecified d).byte i = Config.freeByte d i := rfl

/-- A zeroed buffer reads as zero. -/
theorem Memory.byte_zeros (m : Memory) {n i : Nat} (h : i < n) : (m.zeros n).byte i = 0 := by
  simp [Memory.byte, Memory.zeros, lookup_cellsFrom, h]

/-! ### The canonical form -/

theorem risingCells_iff (cs : List Host.Cell) :
    risingCells cs = true ↔ cs.Pairwise (fun c d => c.1 < d.1) := by
  induction cs with
  | nil => simp [risingCells]
  | cons c cs ih =>
    cases cs with
    | nil => simp [risingCells]
    | cons d cs =>
      rw [risingCells, Bool.and_eq_true, ih, decide_eq_true_eq, List.pairwise_cons (a := c)]
      constructor
      · rintro ⟨hcd, hp⟩
        refine ⟨fun e he => ?_, hp⟩
        rcases List.mem_cons.mp he with rfl | he
        · exact hcd
        · exact hcd.trans ((List.pairwise_cons.mp hp).1 e he)
      · rintro ⟨h, hp⟩
        exact ⟨h d List.mem_cons_self, hp⟩

theorem Memory.wf_iff (m : Memory) (n : Nat) :
    m.wf n = true ↔ m.cells.Pairwise (fun c d => c.1 < d.1) ∧ ∀ c ∈ m.cells, c.1 < n := by
  simp [Memory.wf, risingCells_iff]

theorem pairwise_cellsFrom (i : Nat) (bs : List Byte) :
    (cellsFrom i bs).Pairwise (fun c d => c.1 < d.1) := by
  induction bs generalizing i with
  | nil => simp [cellsFrom]
  | cons b bs ih =>
    rw [cellsFrom, List.pairwise_cons]
    exact ⟨fun c hc => (mem_cellsFrom hc).1, ih (i + 1)⟩

/-- A write inside the buffer keeps the canonical form. -/
theorem Memory.wf_writeRun {m : Memory} {n i : Nat} {bs : List Byte} (hm : m.wf n = true) (h : i + bs.length ≤ n) :
    (m.writeRun i bs).wf n = true := by
  rw [Memory.wf_iff] at hm ⊢
  obtain ⟨hp, hb⟩ := hm
  refine ⟨?_, ?_⟩
  · rw [Memory.writeRun, List.pairwise_append, List.pairwise_append]
    refine ⟨⟨hp.filter _, pairwise_cellsFrom i bs, ?_⟩, hp.filter _, ?_⟩
    · intro c hc d hd
      have := (mem_cellsFrom hd).1
      simp only [List.mem_filter, decide_eq_true_eq] at hc
      omega
    · intro c hc d hd
      simp only [List.mem_append, List.mem_filter, decide_eq_true_eq] at hc hd
      rcases hc with hc | hc
      · omega
      · have := mem_cellsFrom hc
        omega
  · intro c hc
    simp only [Memory.writeRun, List.mem_append, List.mem_filter] at hc
    rcases hc with (hc | hc) | hc
    · exact hb c hc.1
    · have := mem_cellsFrom hc
      omega
    · exact hb c hc.1

theorem Memory.wf_zeros (m : Memory) (n : Nat) : (m.zeros n).wf n = true := by
  rw [Memory.wf_iff]
  refine ⟨pairwise_cellsFrom _ _, fun c hc => ?_⟩
  have := mem_cellsFrom hc
  simp only [List.length_replicate] at this
  omega

theorem Memory.wf_unspecified (d n : Nat) : (Memory.unspecified d).wf n = true := rfl

end Sys2Proof.Machine
end

