-- ==== Sys2Proof/Laws/PerInstr.lean ====
section
/-! SUPPORT. A statement about every command as syntax: its word is its row of the opcode table. -/

namespace Sys2Proof.Laws.TableRow

/-- "match" of a command's row in spec/opcode_table.json. -/
def rowMatch : Instr → Word
  | .nop => 0x00000000
  | .polyInit => 0x00000001
  | .polyStep _ => 0x00000002
  | .polyHrp => 0x00000003
  | .polyData => 0x00000004
  | .expand => 0x00000005
  | .createChecksum => 0x00000006
  | .charsetMap => 0x00000007
  | .repack8to5 => 0x00000008
  | .repack5to8 => 0x00000009
  | .b32Encode => 0x0000000A
  | .segwitEncode => 0x0000000B
  | .b58Encode => 0x00000010
  | .b58Decode => 0x00000011
  | .ecPubkey => 0x00000020
  | .zeroize => 0x00000030

/-- "mask" of a command's row in spec/opcode_table.json. -/
def rowMask : Instr → Word
  | .polyStep _ => 0xFFFF00FF
  | .nop => 0xFFFFFFFF
  | .polyInit => 0xFFFFFFFF
  | .polyHrp => 0xFFFFFFFF
  | .polyData => 0xFFFFFFFF
  | .expand => 0xFFFFFFFF
  | .createChecksum => 0xFFFFFFFF
  | .charsetMap => 0xFFFFFFFF
  | .repack8to5 => 0xFFFFFFFF
  | .repack5to8 => 0xFFFFFFFF
  | .b32Encode => 0xFFFFFFFF
  | .segwitEncode => 0xFFFFFFFF
  | .b58Encode => 0xFFFFFFFF
  | .b58Decode => 0xFFFFFFFF
  | .ecPubkey => 0xFFFFFFFF
  | .zeroize => 0xFFFFFFFF

/-- The word of a command matches its row (30_encoding.md R92, R94, R101), and its field IMM8 is its immediate. -/
def Statement (i : Instr) : Prop := encode i &&& rowMask i = rowMatch i ∧ cmdImm (encode i) = immediate i

theorem nop : Statement .nop := ⟨by decide, by decide⟩
theorem polyInit : Statement .polyInit := ⟨by decide, by decide⟩
theorem polyStep (imm : Byte) : Statement (.polyStep imm) := by
  revert imm
  unfold Statement
  decide +kernel
theorem polyHrp : Statement .polyHrp := ⟨by decide, by decide⟩
theorem polyData : Statement .polyData := ⟨by decide, by decide⟩
theorem expand : Statement .expand := ⟨by decide, by decide⟩
theorem createChecksum : Statement .createChecksum := ⟨by decide, by decide⟩
theorem charsetMap : Statement .charsetMap := ⟨by decide, by decide⟩
theorem repack8to5 : Statement .repack8to5 := ⟨by decide, by decide⟩
theorem repack5to8 : Statement .repack5to8 := ⟨by decide, by decide⟩
theorem b32Encode : Statement .b32Encode := ⟨by decide, by decide⟩
theorem segwitEncode : Statement .segwitEncode := ⟨by decide, by decide⟩
theorem b58Encode : Statement .b58Encode := ⟨by decide, by decide⟩
theorem b58Decode : Statement .b58Decode := ⟨by decide, by decide⟩
theorem ecPubkey : Statement .ecPubkey := ⟨by decide, by decide⟩
theorem zeroize : Statement .zeroize := ⟨by decide, by decide⟩

end Sys2Proof.Laws.TableRow
end

