-- ==== Sys2Proof/Laws/State.lean ====
section
/-! SUPPORT. One lemma per field per update of the state, so that no proof unfolds a record update. -/

namespace Sys2Proof.Machine

variable (s : State)

/-! ### accept -/

@[simp] theorem State.accept_params (w : Word) : (s.accept w).params = s.params := rfl
@[simp] theorem State.accept_irqEn (w : Word) : (s.accept w).irqEn = s.irqEn := rfl
@[simp] theorem State.accept_status (w : Word) : (s.accept w).status = s.status.accepted w := rfl
@[simp] theorem State.accept_hrpLen (w : Word) : (s.accept w).hrpLen = s.hrpLen := rfl
@[simp] theorem State.accept_srcLen (w : Word) : (s.accept w).srcLen = s.srcLen := rfl
@[simp] theorem State.accept_dstLen (w : Word) : (s.accept w).dstLen = s.dstLen := rfl
@[simp] theorem State.accept_chk (w : Word) : (s.accept w).chk = s.chk := rfl
@[simp] theorem State.accept_cksum (w : Word) : (s.accept w).cksum = s.cksum := rfl
@[simp] theorem State.accept_inBuf (w : Word) : (s.accept w).inBuf = s.inBuf := rfl
@[simp] theorem State.accept_outBuf (w : Word) : (s.accept w).outBuf = s.outBuf := rfl
@[simp] theorem State.accept_pending (w : Word) : (s.accept w).pending = true := rfl
@[simp] theorem State.accept_cmd (w : Word) : (s.accept w).cmd = w := rfl
@[simp] theorem State.accept_resp (w : Word) : (s.accept w).resp = s.resp := rfl
@[simp] theorem State.accept_draws (w : Word) : (s.accept w).draws = s.draws := rfl
@[simp] theorem State.accept_host (w : Word) : (s.accept w).host = s.host := rfl
@[simp] theorem State.accept_turns (w : Word) : (s.accept w).turns = s.turns := rfl

/-! ### completeError -/

@[simp] theorem State.completeError_params (e : CmdError) : (s.completeError e).params = s.params := rfl
@[simp] theorem State.completeError_irqEn (e : CmdError) : (s.completeError e).irqEn = s.irqEn := rfl
@[simp] theorem State.completeError_status (e : CmdError) :
    (s.completeError e).status = (s.status.recordError e).completed := rfl
@[simp] theorem State.completeError_hrpLen (e : CmdError) : (s.completeError e).hrpLen = s.hrpLen := rfl
@[simp] theorem State.completeError_srcLen (e : CmdError) : (s.completeError e).srcLen = s.srcLen := rfl
@[simp] theorem State.completeError_dstLen (e : CmdError) : (s.completeError e).dstLen = s.dstLen := rfl
@[simp] theorem State.completeError_chk (e : CmdError) : (s.completeError e).chk = s.chk := rfl
@[simp] theorem State.completeError_cksum (e : CmdError) : (s.completeError e).cksum = s.cksum := rfl
@[simp] theorem State.completeError_inBuf (e : CmdError) : (s.completeError e).inBuf = s.inBuf := rfl
@[simp] theorem State.completeError_outBuf (e : CmdError) : (s.completeError e).outBuf = s.outBuf := rfl
@[simp] theorem State.completeError_pending (e : CmdError) : (s.completeError e).pending = false := rfl
@[simp] theorem State.completeError_cmd (e : CmdError) : (s.completeError e).cmd = s.cmd := rfl
@[simp] theorem State.completeError_resp (e : CmdError) : (s.completeError e).resp = s.resp := rfl
@[simp] theorem State.completeError_draws (e : CmdError) : (s.completeError e).draws = s.draws := rfl
@[simp] theorem State.completeError_host (e : CmdError) : (s.completeError e).host = s.host := rfl
@[simp] theorem State.completeError_turns (e : CmdError) : (s.completeError e).turns = s.turns := rfl

/-! ### writeStatus -/

@[simp] theorem State.writeStatus_params (v : Word) : (s.writeStatus v).params = s.params := rfl
@[simp] theorem State.writeStatus_irqEn (v : Word) : (s.writeStatus v).irqEn = s.irqEn := rfl
@[simp] theorem State.writeStatus_status (v : Word) : (s.writeStatus v).status = s.status.w1c v := rfl
@[simp] theorem State.writeStatus_hrpLen (v : Word) : (s.writeStatus v).hrpLen = s.hrpLen := rfl
@[simp] theorem State.writeStatus_srcLen (v : Word) : (s.writeStatus v).srcLen = s.srcLen := rfl
@[simp] theorem State.writeStatus_dstLen (v : Word) : (s.writeStatus v).dstLen = s.dstLen := rfl
@[simp] theorem State.writeStatus_chk (v : Word) : (s.writeStatus v).chk = s.chk := rfl
@[simp] theorem State.writeStatus_cksum (v : Word) : (s.writeStatus v).cksum = s.cksum := rfl
@[simp] theorem State.writeStatus_inBuf (v : Word) : (s.writeStatus v).inBuf = s.inBuf := rfl
@[simp] theorem State.writeStatus_outBuf (v : Word) : (s.writeStatus v).outBuf = s.outBuf := rfl
@[simp] theorem State.writeStatus_pending (v : Word) : (s.writeStatus v).pending = s.pending := rfl
@[simp] theorem State.writeStatus_cmd (v : Word) : (s.writeStatus v).cmd = s.cmd := rfl
@[simp] theorem State.writeStatus_resp (v : Word) : (s.writeStatus v).resp = s.resp := rfl
@[simp] theorem State.writeStatus_draws (v : Word) : (s.writeStatus v).draws = s.draws := rfl
@[simp] theorem State.writeStatus_host (v : Word) : (s.writeStatus v).host = s.host := rfl
@[simp] theorem State.writeStatus_turns (v : Word) : (s.writeStatus v).turns = s.turns := rfl

/-! ### zeroizeEffects -/

@[simp] theorem State.zeroizeEffects_params : s.zeroizeEffects.params = s.params := rfl
@[simp] theorem State.zeroizeEffects_irqEn : s.zeroizeEffects.irqEn = s.irqEn := rfl
@[simp] theorem State.zeroizeEffects_status : s.zeroizeEffects.status = s.status := rfl
@[simp] theorem State.zeroizeEffects_hrpLen : s.zeroizeEffects.hrpLen = 0 := rfl
@[simp] theorem State.zeroizeEffects_srcLen : s.zeroizeEffects.srcLen = 0 := rfl
@[simp] theorem State.zeroizeEffects_dstLen : s.zeroizeEffects.dstLen = 0 := rfl
@[simp] theorem State.zeroizeEffects_chk : s.zeroizeEffects.chk = 1 := rfl
@[simp] theorem State.zeroizeEffects_cksum : s.zeroizeEffects.cksum = 0 := rfl
@[simp] theorem State.zeroizeEffects_inBuf : s.zeroizeEffects.inBuf = s.inBuf.zeros s.params.ibufSize := rfl
@[simp] theorem State.zeroizeEffects_outBuf : s.zeroizeEffects.outBuf = s.outBuf.zeros s.params.obufSize := rfl
@[simp] theorem State.zeroizeEffects_pending : s.zeroizeEffects.pending = s.pending := rfl
@[simp] theorem State.zeroizeEffects_cmd : s.zeroizeEffects.cmd = s.cmd := rfl
@[simp] theorem State.zeroizeEffects_resp : s.zeroizeEffects.resp = s.resp := rfl
@[simp] theorem State.zeroizeEffects_draws : s.zeroizeEffects.draws = s.draws := rfl
@[simp] theorem State.zeroizeEffects_host : s.zeroizeEffects.host = s.host := rfl
@[simp] theorem State.zeroizeEffects_turns : s.zeroizeEffects.turns = s.turns := rfl

/-! ### writeOut -/

@[simp] theorem State.writeOut_params (out : List Byte) : (s.writeOut out).params = s.params := rfl
@[simp] theorem State.writeOut_irqEn (out : List Byte) : (s.writeOut out).irqEn = s.irqEn := rfl
@[simp] theorem State.writeOut_status (out : List Byte) : (s.writeOut out).status = s.status := rfl
@[simp] theorem State.writeOut_hrpLen (out : List Byte) : (s.writeOut out).hrpLen = s.hrpLen := rfl
@[simp] theorem State.writeOut_srcLen (out : List Byte) : (s.writeOut out).srcLen = s.srcLen := rfl
@[simp] theorem State.writeOut_dstLen (out : List Byte) : (s.writeOut out).dstLen = BitVec.ofNat 16 out.length := rfl
@[simp] theorem State.writeOut_chk (out : List Byte) : (s.writeOut out).chk = s.chk := rfl
@[simp] theorem State.writeOut_cksum (out : List Byte) : (s.writeOut out).cksum = s.cksum := rfl
@[simp] theorem State.writeOut_inBuf (out : List Byte) : (s.writeOut out).inBuf = s.inBuf := rfl
@[simp] theorem State.writeOut_outBuf (out : List Byte) : (s.writeOut out).outBuf = s.outBuf.writeRun 0 out := rfl
@[simp] theorem State.writeOut_pending (out : List Byte) : (s.writeOut out).pending = s.pending := rfl
@[simp] theorem State.writeOut_cmd (out : List Byte) : (s.writeOut out).cmd = s.cmd := rfl
@[simp] theorem State.writeOut_resp (out : List Byte) : (s.writeOut out).resp = s.resp := rfl
@[simp] theorem State.writeOut_draws (out : List Byte) : (s.writeOut out).draws = s.draws := rfl
@[simp] theorem State.writeOut_host (out : List Byte) : (s.writeOut out).host = s.host := rfl
@[simp] theorem State.writeOut_turns (out : List Byte) : (s.writeOut out).turns = s.turns := rfl

/-! ### resetRegisters -/

@[simp] theorem State.resetRegisters_params : s.resetRegisters.params = s.params := rfl
@[simp] theorem State.resetRegisters_irqEn : s.resetRegisters.irqEn = false := rfl
@[simp] theorem State.resetRegisters_status : s.resetRegisters.status = Status.cleared := rfl
@[simp] theorem State.resetRegisters_hrpLen : s.resetRegisters.hrpLen = 0 := rfl
@[simp] theorem State.resetRegisters_srcLen : s.resetRegisters.srcLen = 0 := rfl
@[simp] theorem State.resetRegisters_dstLen : s.resetRegisters.dstLen = 0 := rfl
@[simp] theorem State.resetRegisters_chk : s.resetRegisters.chk = 1 := rfl
@[simp] theorem State.resetRegisters_cksum : s.resetRegisters.cksum = 0 := rfl
@[simp] theorem State.resetRegisters_inBuf : s.resetRegisters.inBuf = s.inBuf := rfl
@[simp] theorem State.resetRegisters_outBuf : s.resetRegisters.outBuf = s.outBuf := rfl
@[simp] theorem State.resetRegisters_pending : s.resetRegisters.pending = false := rfl
@[simp] theorem State.resetRegisters_cmd : s.resetRegisters.cmd = 0 := rfl
@[simp] theorem State.resetRegisters_resp : s.resetRegisters.resp = s.resp := rfl
@[simp] theorem State.resetRegisters_draws : s.resetRegisters.draws = s.draws := rfl
@[simp] theorem State.resetRegisters_host : s.resetRegisters.host = s.host := rfl
@[simp] theorem State.resetRegisters_turns : s.resetRegisters.turns = s.turns := rfl

/-! ### abandon -/

@[simp] theorem State.abandon_params : s.abandon.params = s.params := rfl
@[simp] theorem State.abandon_irqEn : s.abandon.irqEn = s.irqEn := rfl
@[simp] theorem State.abandon_status : s.abandon.status = s.status := rfl
@[simp] theorem State.abandon_hrpLen : s.abandon.hrpLen = s.hrpLen := rfl
@[simp] theorem State.abandon_srcLen : s.abandon.srcLen = s.srcLen := rfl
@[simp] theorem State.abandon_dstLen : s.abandon.dstLen = s.dstLen := rfl
@[simp] theorem State.abandon_chk : s.abandon.chk = s.chk := rfl
@[simp] theorem State.abandon_cksum : s.abandon.cksum = s.cksum := rfl
@[simp] theorem State.abandon_inBuf :
    s.abandon.inBuf = if s.cmd.extractLsb' 0 8 = 0x30 then Memory.unspecified (s.draws + 1) else s.inBuf := rfl
@[simp] theorem State.abandon_outBuf : s.abandon.outBuf = Memory.unspecified s.draws := rfl
@[simp] theorem State.abandon_pending : s.abandon.pending = s.pending := rfl
@[simp] theorem State.abandon_cmd : s.abandon.cmd = s.cmd := rfl
@[simp] theorem State.abandon_resp : s.abandon.resp = s.resp := rfl
@[simp] theorem State.abandon_draws : s.abandon.draws = s.draws + 2 := rfl
@[simp] theorem State.abandon_host : s.abandon.host = s.host := rfl
@[simp] theorem State.abandon_turns : s.abandon.turns = s.turns := rfl

/-! ### powerOn -/

@[simp] theorem State.powerOn_params : s.powerOn.params = s.params := rfl
@[simp] theorem State.powerOn_irqEn : s.powerOn.irqEn = false := rfl
@[simp] theorem State.powerOn_status : s.powerOn.status = Status.cleared := rfl
@[simp] theorem State.powerOn_hrpLen : s.powerOn.hrpLen = 0 := rfl
@[simp] theorem State.powerOn_srcLen : s.powerOn.srcLen = 0 := rfl
@[simp] theorem State.powerOn_dstLen : s.powerOn.dstLen = 0 := rfl
@[simp] theorem State.powerOn_chk : s.powerOn.chk = 1 := rfl
@[simp] theorem State.powerOn_cksum : s.powerOn.cksum = 0 := rfl
@[simp] theorem State.powerOn_inBuf : s.powerOn.inBuf = Memory.unspecified s.draws := rfl
@[simp] theorem State.powerOn_outBuf : s.powerOn.outBuf = Memory.unspecified (s.draws + 1) := rfl
@[simp] theorem State.powerOn_pending : s.powerOn.pending = false := rfl
@[simp] theorem State.powerOn_cmd : s.powerOn.cmd = 0 := rfl
@[simp] theorem State.powerOn_resp : s.powerOn.resp = none := rfl
@[simp] theorem State.powerOn_draws : s.powerOn.draws = s.draws + 2 := rfl
@[simp] theorem State.powerOn_host : s.powerOn.host = s.host := rfl
@[simp] theorem State.powerOn_turns : s.powerOn.turns = s.turns := rfl

/-! ### noteExpect -/

@[simp] theorem State.noteExpect_params (b : Bool) : (s.noteExpect b).params = s.params := rfl
@[simp] theorem State.noteExpect_irqEn (b : Bool) : (s.noteExpect b).irqEn = s.irqEn := rfl
@[simp] theorem State.noteExpect_status (b : Bool) : (s.noteExpect b).status = s.status := rfl
@[simp] theorem State.noteExpect_hrpLen (b : Bool) : (s.noteExpect b).hrpLen = s.hrpLen := rfl
@[simp] theorem State.noteExpect_srcLen (b : Bool) : (s.noteExpect b).srcLen = s.srcLen := rfl
@[simp] theorem State.noteExpect_dstLen (b : Bool) : (s.noteExpect b).dstLen = s.dstLen := rfl
@[simp] theorem State.noteExpect_chk (b : Bool) : (s.noteExpect b).chk = s.chk := rfl
@[simp] theorem State.noteExpect_cksum (b : Bool) : (s.noteExpect b).cksum = s.cksum := rfl
@[simp] theorem State.noteExpect_inBuf (b : Bool) : (s.noteExpect b).inBuf = s.inBuf := rfl
@[simp] theorem State.noteExpect_outBuf (b : Bool) : (s.noteExpect b).outBuf = s.outBuf := rfl
@[simp] theorem State.noteExpect_pending (b : Bool) : (s.noteExpect b).pending = s.pending := rfl
@[simp] theorem State.noteExpect_cmd (b : Bool) : (s.noteExpect b).cmd = s.cmd := rfl
@[simp] theorem State.noteExpect_resp (b : Bool) : (s.noteExpect b).resp = s.resp := rfl
@[simp] theorem State.noteExpect_draws (b : Bool) : (s.noteExpect b).draws = s.draws := rfl
@[simp] theorem State.noteExpect_turns (b : Bool) : (s.noteExpect b).turns = s.turns := rfl
@[simp] theorem State.noteExpect_host (b : Bool) :
    (s.noteExpect b).host = { s.host with expectFailed := s.host.expectFailed || !b } := rfl

/-! ### advanceHost -/

@[simp] theorem State.advanceHost_params : s.advanceHost.params = s.params := rfl
@[simp] theorem State.advanceHost_irqEn : s.advanceHost.irqEn = s.irqEn := rfl
@[simp] theorem State.advanceHost_status : s.advanceHost.status = s.status := rfl
@[simp] theorem State.advanceHost_hrpLen : s.advanceHost.hrpLen = s.hrpLen := rfl
@[simp] theorem State.advanceHost_srcLen : s.advanceHost.srcLen = s.srcLen := rfl
@[simp] theorem State.advanceHost_dstLen : s.advanceHost.dstLen = s.dstLen := rfl
@[simp] theorem State.advanceHost_chk : s.advanceHost.chk = s.chk := rfl
@[simp] theorem State.advanceHost_cksum : s.advanceHost.cksum = s.cksum := rfl
@[simp] theorem State.advanceHost_inBuf : s.advanceHost.inBuf = s.inBuf := rfl
@[simp] theorem State.advanceHost_outBuf : s.advanceHost.outBuf = s.outBuf := rfl
@[simp] theorem State.advanceHost_pending : s.advanceHost.pending = s.pending := rfl
@[simp] theorem State.advanceHost_cmd : s.advanceHost.cmd = s.cmd := rfl
@[simp] theorem State.advanceHost_resp : s.advanceHost.resp = s.resp := rfl
@[simp] theorem State.advanceHost_draws : s.advanceHost.draws = s.draws := rfl
@[simp] theorem State.advanceHost_host : s.advanceHost.host = { s.host with pos := s.host.pos + 1 } := rfl
@[simp] theorem State.advanceHost_turns : s.advanceHost.turns = s.turns := rfl

/-! ### takeTurn -/

@[simp] theorem State.takeTurn_params : s.takeTurn.params = s.params := rfl
@[simp] theorem State.takeTurn_irqEn : s.takeTurn.irqEn = s.irqEn := rfl
@[simp] theorem State.takeTurn_status : s.takeTurn.status = s.status := rfl
@[simp] theorem State.takeTurn_hrpLen : s.takeTurn.hrpLen = s.hrpLen := rfl
@[simp] theorem State.takeTurn_srcLen : s.takeTurn.srcLen = s.srcLen := rfl
@[simp] theorem State.takeTurn_dstLen : s.takeTurn.dstLen = s.dstLen := rfl
@[simp] theorem State.takeTurn_chk : s.takeTurn.chk = s.chk := rfl
@[simp] theorem State.takeTurn_cksum : s.takeTurn.cksum = s.cksum := rfl
@[simp] theorem State.takeTurn_inBuf : s.takeTurn.inBuf = s.inBuf := rfl
@[simp] theorem State.takeTurn_outBuf : s.takeTurn.outBuf = s.outBuf := rfl
@[simp] theorem State.takeTurn_pending : s.takeTurn.pending = s.pending := rfl
@[simp] theorem State.takeTurn_cmd : s.takeTurn.cmd = s.cmd := rfl
@[simp] theorem State.takeTurn_resp : s.takeTurn.resp = s.resp := rfl
@[simp] theorem State.takeTurn_draws : s.takeTurn.draws = s.draws := rfl
@[simp] theorem State.takeTurn_host : s.takeTurn.host = s.host := rfl
@[simp] theorem State.takeTurn_turns : s.takeTurn.turns = s.turns.tail := rfl

/-! ### withCommand -/

@[simp] theorem State.withCommand_params (w : Word) : (s.withCommand w).params = s.params := rfl
@[simp] theorem State.withCommand_irqEn (w : Word) : (s.withCommand w).irqEn = s.irqEn := rfl
@[simp] theorem State.withCommand_status (w : Word) : (s.withCommand w).status = s.status.accepted w := rfl
@[simp] theorem State.withCommand_hrpLen (w : Word) : (s.withCommand w).hrpLen = s.hrpLen := rfl
@[simp] theorem State.withCommand_srcLen (w : Word) : (s.withCommand w).srcLen = s.srcLen := rfl
@[simp] theorem State.withCommand_dstLen (w : Word) : (s.withCommand w).dstLen = s.dstLen := rfl
@[simp] theorem State.withCommand_chk (w : Word) : (s.withCommand w).chk = s.chk := rfl
@[simp] theorem State.withCommand_cksum (w : Word) : (s.withCommand w).cksum = s.cksum := rfl
@[simp] theorem State.withCommand_inBuf (w : Word) : (s.withCommand w).inBuf = s.inBuf := rfl
@[simp] theorem State.withCommand_outBuf (w : Word) : (s.withCommand w).outBuf = s.outBuf := rfl
@[simp] theorem State.withCommand_pending (w : Word) : (s.withCommand w).pending = true := rfl
@[simp] theorem State.withCommand_cmd (w : Word) : (s.withCommand w).cmd = w := rfl
@[simp] theorem State.withCommand_resp (w : Word) : (s.withCommand w).resp = s.resp := rfl
@[simp] theorem State.withCommand_draws (w : Word) : (s.withCommand w).draws = s.draws := rfl
@[simp] theorem State.withCommand_host (w : Word) : (s.withCommand w).host = s.host := rfl
@[simp] theorem State.withCommand_turns (w : Word) : (s.withCommand w).turns = .engine :: s.turns := rfl

end Sys2Proof.Machine
end

