-- ==== Sys2Proof/Laws/Step.lean ====
section
/-! SUPPORT. What a completion, a bus access and a step can do, said once each: proofs cite these instead of
unfolding the machine. -/

namespace Sys2Proof.Machine

/-! ### Completion -/

/-- Every command's meaning is the completion of its rule (30_encoding.md R99). -/
theorem exec_eq_complete (i : Instr) (s : State) : exec i s = .next (s.complete (ruleOf i s)) := by
  cases i <;> rfl

@[simp] theorem fitOutput_error (p : Params) (e : CmdError) : fitOutput p (.error e) = .error e := rfl

/-- A result that fits OUT_BUF takes effect as it is. -/
theorem fitOutput_ok {p : Params} {r : Result} (h : (r.out.getD []).length ≤ p.obufSize) :
    fitOutput p (.ok r) = .ok r := by
  simp [fitOutput, Nat.not_lt.mpr h]

/-- A result longer than OBUF_SIZE is OUT_LENGTH. -/
theorem fitOutput_outLength {p : Params} {r : Result} (h : p.obufSize < (r.out.getD []).length) :
    fitOutput p (.ok r) = .error .outLength := by
  simp [fitOutput, h]

/-- What survives the fit was a success whose output fits. -/
theorem fitOutput_eq_ok {p : Params} {res : Except CmdError Result} {r : Result} (h : fitOutput p res = .ok r) :
    res = .ok r ∧ (r.out.getD []).length ≤ p.obufSize := by
  cases res with
  | error e => simp at h
  | ok q =>
    simp only [fitOutput] at h
    split at h
    · simp at h
    · cases h
      exact ⟨rfl, by omega⟩

theorem complete_of_error {s : State} {res : Except CmdError Result} {e : CmdError}
    (h : fitOutput s.params res = .error e) : s.complete res = s.completeError e := by
  simp [State.complete, h]

theorem complete_of_ok {s : State} {res : Except CmdError Result} {r : Result} (h : fitOutput s.params res = .ok r) :
    s.complete res = { s.commit r with status := s.status.completed, pending := false } := by
  simp [State.complete, h]

/-- Everything a completion can be: an error, or a commit of a result that fits. -/
theorem complete_cases (s : State) (res : Except CmdError Result) :
    (∃ e, fitOutput s.params res = .error e ∧ s.complete res = s.completeError e) ∨
    (∃ r, res = .ok r ∧ (r.out.getD []).length ≤ s.params.obufSize ∧
      s.complete res = { s.commit r with status := s.status.completed, pending := false }) := by
  cases h : fitOutput s.params res with
  | error e => exact .inl ⟨e, rfl, complete_of_error h⟩
  | ok r => exact .inr ⟨r, (fitOutput_eq_ok h).1, (fitOutput_eq_ok h).2, complete_of_ok h⟩

/-- The error completion is the one exception entry (60_exceptions.md R262). -/
theorem completeError_failed (s : State) (e : CmdError) : failed s (s.completeError e) e := rfl

/-! ### The commit of a result -/

/-- A commit writes nothing but the buffers, the lengths, CHK and CKSUM. -/
theorem commit_frame (s : State) (r : Result) :
    s.commit r =
      { s with
        inBuf := (s.commit r).inBuf, outBuf := (s.commit r).outBuf, hrpLen := (s.commit r).hrpLen
        srcLen := (s.commit r).srcLen, dstLen := (s.commit r).dstLen, chk := (s.commit r).chk
        cksum := (s.commit r).cksum } := by
  obtain ⟨out, chk, cksum, z⟩ := r
  cases out <;> cases z <;> rfl

/-- The single fields a commit leaves, and the draws of the buffers it writes. -/
@[simp] theorem commit_status (s : State) (r : Result) : (s.commit r).status = s.status := by rw [commit_frame]
@[simp] theorem commit_params (s : State) (r : Result) : (s.commit r).params = s.params := by rw [commit_frame]
@[simp] theorem commit_cmd (s : State) (r : Result) : (s.commit r).cmd = s.cmd := by rw [commit_frame]
@[simp] theorem commit_draws (s : State) (r : Result) : (s.commit r).draws = s.draws := by rw [commit_frame]

@[simp] theorem commit_inBuf_fill (s : State) (r : Result) : (s.commit r).inBuf.fill = s.inBuf.fill := by
  obtain ⟨out, chk, cksum, z⟩ := r
  cases out <;> cases z <;> rfl

@[simp] theorem commit_outBuf_fill (s : State) (r : Result) : (s.commit r).outBuf.fill = s.outBuf.fill := by
  obtain ⟨out, chk, cksum, z⟩ := r
  cases out <;> cases z <;> rfl

/-- A commit that does not zeroize writes OUT_BUF, DST_LEN, CHK and CKSUM only. -/
theorem commit_keeps_operands (s : State) {r : Result} (hz : r.zeroize = false) :
    (s.commit r).inBuf = s.inBuf ∧ (s.commit r).hrpLen = s.hrpLen ∧ (s.commit r).srcLen = s.srcLen := by
  obtain ⟨out, chk, cksum, z⟩ := r
  cases out <;> cases z <;> simp_all [State.commit]

/-- No command's rule but ZEROIZE's zeroizes (30_encoding.md R96). -/
theorem ruleOf_zeroize {i : Instr} {s : State} {r : Result} (h : ruleOf i s = .ok r) (hi : i ≠ .zeroize) :
    r.zeroize = false := by
  cases i <;>
    simp only [ruleOf, ruleNop, rulePolyInit, rulePolyStep, rulePolyHrp, rulePolyData, ruleExpand,
      ruleCreateChecksum, ruleCharsetMap, ruleRepack8to5, ruleRepack5to8, ruleB32Encode, ruleSegwitEncode,
      ruleB58Encode, ruleB58Decode, ruleEcPubkey, State.withRegions, whenSymbols, whenPresent, checksumResult,
      frameResult, ne_eq, not_true_eq_false] at h hi <;>
    (repeat' split at h) <;> simp_all <;> cases h <;> rfl

/-! ### Bus writes -/

/-- The window is the 0x3000 bytes from BASE (20_memory.md R68). -/
theorem inWindow_iff (s : State) (addr : Nat) :
    s.inWindow addr = true ↔ s.params.base ≤ addr ∧ addr < s.params.base + 0x3000 := by
  unfold State.inWindow windowSize
  rw [Bool.and_eq_true, decide_eq_true_eq, decide_eq_true_eq]

/-- Everything a write at an aligned offset can do (20_memory.md R65). -/
theorem busWrite_cases (s : State) (o : Nat) (v : Word) :
    s.busWrite o v = s ∨
    (o = 0x00C ∧ s.busWrite o v = s.writeCtrl v) ∨
    (o = 0x010 ∧ s.busWrite o v = s.writeStatus v) ∨
    (s.pending = true ∧ s.busWrite o v = { s with status := s.status.overrun }) ∨
    (s.pending = false ∧
      ((o = 0x014 ∧ s.busWrite o v = s.accept v) ∨
       (o = 0x018 ∧ s.busWrite o v = { s with hrpLen := v.setWidth 16 }) ∨
       (o = 0x01C ∧ s.busWrite o v = { s with srcLen := v.setWidth 16 }) ∨
       (o = 0x024 ∧ s.busWrite o v = { s with chk := v.setWidth 30 }) ∨
       (∃ j, s.inBufIndex o = some j ∧ s.busWrite o v = { s with inBuf := s.inBuf.writeRun j (leBytes v) }))) := by
  unfold State.busWrite
  split
  · simp
  · simp
  · cases h : s.pending <;> simp [State.interlocked, h]
  · cases h : s.pending <;> simp [State.interlocked, h]
  · cases h : s.pending <;> simp [State.interlocked, h]
  · cases h : s.pending <;> simp [State.interlocked, h]
  · unfold State.writeWindow
    cases hj : s.inBufIndex o with
    | none => simp
    | some j =>
      cases h : s.pending
      · refine .inr (.inr (.inr (.inr ⟨rfl, .inr (.inr (.inr (.inr ⟨j, rfl, ?_⟩)))⟩)))
        simp [State.interlocked, h]
      · refine .inr (.inr (.inr (.inl ⟨rfl, ?_⟩)))
        simp [State.interlocked, h]

/-- A read does nothing but count a draw (20_memory.md R66). -/
theorem busRead_frame (s : State) (o : Nat) : (s.busRead o).2 = { s with draws := (s.busRead o).2.draws } := by
  unfold State.busRead
  split <;> rfl

theorem busRead_draws_le (s : State) (o : Nat) : s.draws ≤ (s.busRead o).2.draws := by
  unfold State.busRead
  split
  · exact Nat.le_succ _
  · exact Nat.le_refl _

/-! ### The host's step -/

/-- No bus access touches the host agent. -/
@[simp] theorem busWrite_host (s : State) (o : Nat) (v : Word) : (s.busWrite o v).host = s.host := by
  rcases busWrite_cases s o v with e | ⟨-, e⟩ | ⟨-, e⟩ | ⟨-, e⟩ | ⟨-, ⟨-, e⟩ | ⟨-, e⟩ | ⟨-, e⟩ | ⟨-, e⟩ | ⟨_, _, e⟩⟩ <;>
    rw [e] <;> try rfl
  unfold State.writeCtrl State.softReset
  (repeat' split) <;> rfl

@[simp] theorem busRead_host (s : State) (o : Nat) : (s.busRead o).2.host = s.host := by
  rw [busRead_frame]

/-- What the host's step can make of the block: nothing, or one bus access. `h` is the host agent after it. -/
theorem hostStep_cases {s t : State} (h : hostStep s = .next t) :
    (∃ a, t = { s with host := a }) ∨
    (∃ a o v, o % 4 = 0 ∧ t = { s.accessInside o (.write v) with host := a }) ∨
    (∃ a o, o % 4 = 0 ∧ t = { s.accessInside o .read with host := a }) ∨
    (∃ a d, t = { s.accessElsewhere d with host := a }) := by
  have bind_frame : ∀ (u : State) (n : Nat), ∃ a, (u.bindResponse n).advanceHost = { u with host := a } := by
    intro u n
    unfold State.bindResponse
    split <;> exact ⟨_, rfl⟩
  have bus : ∀ {addr width : Nat} {d : BusDir} {f : State → State}
      (_ : ∀ u, ∃ a, f u = { u with host := a })
      (_ : mapNext (busTransact s addr width d) f = .next t),
      (∃ a o, o % 4 = 0 ∧ t = { s.accessInside o d with host := a }) ∨
      (∃ a, t = { s.accessElsewhere d with host := a }) := by
    intro addr width d f hf ht
    unfold busTransact at ht
    split at ht
    · obtain ⟨a, ha⟩ := hf (s.accessElsewhere d)
      simp only [mapNext, Host.Outcome.next.injEq] at ht
      exact .inr ⟨a, by rw [← ht, ha]⟩
    · split at ht
      · simp [mapNext] at ht
      · split at ht
        · simp [mapNext] at ht
        · rename_i hal
          obtain ⟨a, ha⟩ := hf (s.accessInside (addr - s.params.base) d)
          simp only [mapNext, Host.Outcome.next.injEq] at ht
          exact .inl ⟨a, _, not_not.mp hal, by rw [← ht, ha]⟩
  unfold hostStep at h
  split at h
  · cases h
    exact .inl ⟨s.host, rfl⟩
  · rename_i st _
    cases st with
    | wr addr width e =>
      simp only [hostStatement] at h
      split at h
      · simp at h
      · rename_i v _
        rcases bus (fun u => ⟨_, rfl⟩) h with ⟨a, o, ho, rfl⟩ | ⟨a, rfl⟩
        · exact .inr (.inl ⟨a, o, v, ho, rfl⟩)
        · exact .inr (.inr (.inr ⟨a, _, rfl⟩))
    | rd addr width n =>
      simp only [hostStatement] at h
      rcases bus (fun u => bind_frame u n) h with ⟨a, o, ho, rfl⟩ | ⟨a, rfl⟩
      · exact .inr (.inr (.inl ⟨a, o, ho, rfl⟩))
      · exact .inr (.inr (.inr ⟨a, _, rfl⟩))
    | label l =>
      simp only [hostStatement, Host.Outcome.next.injEq] at h
      exact .inl ⟨_, h.symm⟩
    | ifGoto c l =>
      simp only [hostStatement] at h
      split at h
      · simp at h
      · simp only [Host.Outcome.next.injEq] at h
        exact .inl ⟨_, h.symm⟩
      · split at h
        · simp at h
        · simp only [Host.Outcome.next.injEq] at h
          exact .inl ⟨_, h.symm⟩
    | expect c =>
      simp only [hostStatement] at h
      split at h
      · simp at h
      · simp only [Host.Outcome.next.injEq] at h
        exact .inl ⟨_, h.symm⟩

/-! ### A step -/

/-- What the engine's move can be: nothing while idle, else a completion, in error for a rejected word. -/
theorem engineStep_cases {s t : State} (h : engineStep s = .next t) :
    (s.pending = false ∧ t = s) ∨
    (s.pending = true ∧ ∃ e, decode s.params s.cmd = .error e ∧ t = s.completeError (decodeErrorToCmd e)) ∨
    (s.pending = true ∧ ∃ i, decode s.params s.cmd = .ok i ∧ t = s.complete (ruleOf i s)) := by
  unfold engineStep at h
  split at h
  · rename_i hp
    cases hd : decode s.params s.cmd with
    | error e =>
      simp only [hd, Host.Outcome.next.injEq] at h
      exact .inr (.inl ⟨hp, e, rfl, h.symm⟩)
    | ok i =>
      simp only [hd, exec_eq_complete, Host.Outcome.next.injEq] at h
      exact .inr (.inr ⟨hp, i, rfl, h.symm⟩)
  · rename_i hp
    simp only [Host.Outcome.next.injEq] at h
    exact .inl ⟨by simpa using hp, h.symm⟩

/-- The engine's move never stops the machine (60_exceptions.md: a command error is a result). -/
theorem engineStep_next (s : State) : ∃ t, engineStep s = .next t := by
  unfold engineStep
  split
  · split
    · exact ⟨_, rfl⟩
    · exact ⟨_, exec_eq_complete _ _⟩
  · exact ⟨_, rfl⟩

/-- A step is one move of one agent. -/
theorem step_cases {s t : State} (h : step s = .next t) :
    (s.mover = .host ∧ hostStep s.takeTurn = .next t) ∨
    (s.mover = .engine ∧ engineStep s.takeTurn = .next t) ∨
    (s.mover = .powerOn ∧ t = s.takeTurn.powerOn) := by
  unfold step machineStep at h
  split at h
  · exact .inl ⟨‹_›, h⟩
  · exact .inr (.inl ⟨‹_›, h⟩)
  · simp only [Host.Outcome.next.injEq] at h
    exact .inr (.inr ⟨‹_›, h.symm⟩)

end Sys2Proof.Machine
end

