-- ==== Sys2Proof/Tests/Slice0.lean ====
section
/-! SUPPORT. Tests of the model against the spec's own vectors (95_test_vectors.md; each test names its vector), and a
witness for each statement that has hypotheses. -/

namespace Sys2Proof.Tests

-- The evaluations run one after another, so that no queue of waiting threads builds up behind the long ones.
set_option Elab.async false

open Sys2Proof Sys2Proof.Machine

/-- The ASCII bytes of some characters. -/
def ascii (cs : List Char) : List Byte := cs.map (fun c => BitVec.ofNat 8 c.toNat)

/-- The state after reset with `h` and `d` loaded as the regions H and D. -/
def loaded (h d : List Byte) : State :=
  { State.reset with
    inBuf := State.reset.inBuf.writeRun 0 (h ++ d)
    hrpLen := BitVec.ofNat 16 h.length
    srcLen := BitVec.ofNat 16 d.length }

/-- The state one step after the command word `w` was accepted in `s`; `s` itself where that step stops. -/
def ran (s : State) (w : Word) : State :=
  match step (s.withCommand w) with
  | .next t => t
  | .fault _ => s
  | .refused _ => s

/-- The same from the loaded regions. -/
def after (h d : List Byte) (w : Word) : State := ran (loaded h d) w

/-- `s` with the host at the start of a program. -/
def hosted (s : State) (prog : List Stmt) : State := { s with host := { prog := prog, pos := 0, names := [], expectFailed := false } }

/-- STATUS, DST_LEN and the result bytes. -/
def outcome (t : State) : Word × Len × List Byte := (t.statusWord, t.dstLen, t.outBuf.bytes 0 t.dstLen.toNat)

/-! ### Decoding: one word for each constructor, from the fields of 30_encoding.md R90 and the opcodes of R92 -/

/-- OP 0x00. -/
theorem test_decode_nop :
    decodeTableWord 32 0x00000000 = some .nop ∧ encode .nop = 0x00000000 := by decide

/-- OP 0x01. -/
theorem test_decode_polyInit :
    decodeTableWord 32 0x00000001 = some .polyInit ∧ encode .polyInit = 0x00000001 := by decide

/-- R101's `POLY_STEP 1`. -/
theorem test_decode_polyStep :
    decodeTableWord 32 0x00000102 = some (.polyStep 1) ∧ encode (.polyStep 1) = 0x00000102 := by decide

/-- OP 0x03. -/
theorem test_decode_polyHrp :
    decodeTableWord 32 0x00000003 = some .polyHrp ∧ encode .polyHrp = 0x00000003 := by decide

/-- OP 0x04. -/
theorem test_decode_polyData :
    decodeTableWord 32 0x00000004 = some .polyData ∧ encode .polyData = 0x00000004 := by decide

/-- OP 0x05. -/
theorem test_decode_expand :
    decodeTableWord 32 0x00000005 = some .expand ∧ encode .expand = 0x00000005 := by decide

/-- OP 0x06. -/
theorem test_decode_createChecksum :
    decodeTableWord 32 0x00000006 = some .createChecksum ∧ encode .createChecksum = 0x00000006 := by decide

/-- OP 0x07. -/
theorem test_decode_charsetMap :
    decodeTableWord 32 0x00000007 = some .charsetMap ∧ encode .charsetMap = 0x00000007 := by decide

/-- OP 0x08. -/
theorem test_decode_repack8to5 :
    decodeTableWord 32 0x00000008 = some .repack8to5 ∧ encode .repack8to5 = 0x00000008 := by decide

/-- OP 0x09. -/
theorem test_decode_repack5to8 :
    decodeTableWord 32 0x00000009 = some .repack5to8 ∧ encode .repack5to8 = 0x00000009 := by decide

/-- OP 0x0A. -/
theorem test_decode_b32Encode :
    decodeTableWord 32 0x0000000A = some .b32Encode ∧ encode .b32Encode = 0x0000000A := by decide

/-- OP 0x0B. -/
theorem test_decode_segwitEncode :
    decodeTableWord 32 0x0000000B = some .segwitEncode ∧ encode .segwitEncode = 0x0000000B := by decide

/-- R101's `B58_ENCODE`. -/
theorem test_decode_b58Encode :
    decodeTableWord 32 0x00000010 = some .b58Encode ∧ encode .b58Encode = 0x00000010 := by decide

/-- OP 0x11. -/
theorem test_decode_b58Decode :
    decodeTableWord 32 0x00000011 = some .b58Decode ∧ encode .b58Decode = 0x00000011 := by decide

/-- OP 0x20. -/
theorem test_decode_ecPubkey :
    decodeTableWord 32 0x00000020 = some .ecPubkey ∧ encode .ecPubkey = 0x00000020 := by decide

/-- OP 0x30. -/
theorem test_decode_zeroize :
    decodeTableWord 32 0x00000030 = some .zeroize ∧ encode .zeroize = 0x00000030 := by decide

/-- POLY_STEP 0xA5 bit by bit: RSVD 0, IMM8 10100101, OP 00000010. -/
theorem test_decode_bits :
    decode Config.thisHardware 0b0000000000000000_10100101_00000010 = .ok (.polyStep 0xA5) := by decide

/-- The ends of each illegal range of R93. -/
theorem test_decode_illegal :
    [0x0C, 0x0F, 0x12, 0x1F, 0x21, 0x2F, 0x31, 0xFF].map (decode Config.thisHardware) = List.replicate 8 (.error
      .illegalOp) := by decide

/-- V-L2-DECODE-6, V-L2-DECODE-8, V-L2-NOP-3, V-L2-ZEROIZE-3. -/
theorem test_decode_reserved :
    [0x00000105, 0x80000002, 0x00000100, 0x00010030].map (decode Config.thisHardware) = List.replicate 4 (.error
      .reservedField) := by decide

/-- V-L2-DECODE-4 and V-L2-DECODE-5: ILLEGAL_OP before RESERVED_FIELD. -/
theorem test_decode_precedence :
    decode { Config.thisHardware with hasEcmul := false } 0x00010020 = .error .illegalOp ∧ decode
      Config.thisHardware 0x00010020 = .error .reservedField := by decide

/-! ### Well-formedness: an ill-formed term for each check -/

/-- The commands of an absent option are refused; the present ones are not. -/
theorem test_wf_refuses :
    Instr.wf { Config.thisHardware with hasB58 := false } .b58Encode = false ∧ Instr.wf { Config.thisHardware
      with hasB58 := false } .b58Decode = false ∧ Instr.wf { Config.thisHardware with hasEcmul := false }
      .ecPubkey = false ∧ Instr.wf Config.thisHardware .ecPubkey = true := by decide

/-- Sizes that are no multiple of 4, below 64 or above 4096, and an unaligned BASE are refused (00_scope.md R8). -/
theorem test_params_refused :
    Params.legal Config.thisHardware = true ∧ Params.legal { Config.thisHardware with ibufSize := 66 } = false ∧
      Params.legal { Config.thisHardware with ibufSize := 60 } = false ∧ Params.legal { Config.thisHardware with
      obufSize := 4100 } = false ∧ Params.legal { Config.thisHardware with obufSize := 4096 } = true ∧
      Params.legal { Config.thisHardware with base := 0x800 } = false := by decide

/-! ### One step for each command, from 95_test_vectors.md -/

/-- V-L2-NOP-1. -/
theorem test_nop :
    (after [] [] 0x00000000).statusWord = 0x00000002 := by decide

/-- V-L2-NOP-2 and V-L2-NOP-4: OVR stays, and with IRQ_EN the completion raises IRQ. -/
theorem test_nop_ovr :
    let t := ran { State.reset with irqEn := true, status := { Status.cleared with ovr := true } } 0x00000000
    t.statusWord = 0x0000000A ∧ t.irq = true := by decide

/-- V-L2-POLY_INIT-1. -/
theorem test_polyInit :
    (ran { State.reset with chk := 0x1ab5165a } 0x00000001).chk = 1 := by decide

/-- V-L2-POLY_STEP-2 and V-L2-DECODE-7. -/
theorem test_polyStep :
    (ran { State.reset with chk := 0x20 } 0x00000102).chk = 0x401 ∧ (after [] [] 0x0000FF02).chk = 0xdf ∧ (after
      [] [] 0x0000FF02).statusWord = 0x00020002 := by decide

/-- V-L2-POLY_STEP-3 and V-L2-POLY_STEP-4: one generator per top bit, and all of them. -/
theorem test_polyStep_generators :
    [0x02000000, 0x04000000, 0x08000000, 0x10000000, 0x20000000, 0x3FFFFFFF].map (fun c => polystep c 0) =
      [0x3b6a57b2, 0x26508e6d, 0x1ea119fa, 0x3d4233dd, 0x2a1462b3, 0x2b326eab] := by decide

/-- V-L2-POLY_HRP-1 and V-L2-POLY_HRP-2. -/
theorem test_polyHrp :
    (after (ascii ['b', 'c']) [] 0x00000003).chk = 0x02318043 ∧ (after [] [] 0x00000003).chk = 0x20 := by decide

/-- V-L2-POLY_HRP-4 (no case folding) and V-L2-POLY_HRP-5. -/
theorem test_polyHrp_high :
    (after (ascii ['B', 'C']) [] 0x00000003).chk = 0x02210043 ∧ (after [0xFF] [] 0x00000003).chk = 0x9c1f := by decide

/-- V-L2-POLY_DATA-1: a valid checksum ends in 1. -/
theorem test_polyData :
    (ran ({ loaded (ascii ['b', 'c']) [0, 1, 13, 11, 10, 5, 18, 27] with chk := 0x02318043 }) 0x00000004).chk =
      1 := by decide

/-- V-L2-POLY_DATA-4 and V-L2-POLY_DATA-5. -/
theorem test_polyData_short :
    (ran ({ loaded (ascii ['b', 'c']) [] with chk := 0x1ab5165a }) 0x00000004).chk = 0x1ab5165a ∧ (after [] [0,
      1] 0x00000004).chk = 0x401 := by decide

/-- V-L1-1, V-L2-EXPAND-1. -/
theorem test_expand :
    outcome (after (ascii ['b', 'c']) [] 0x00000005) = (0x00050002, 5, [3, 3, 0, 2, 3]) := by decide

/-- V-L2-EXPAND-7: 128 bytes of H are too many, and nothing but STATUS changes. -/
theorem test_expand_long :
    ran { State.reset with hrpLen := 128 } 0x00000005 = { State.reset with hrpLen := 128, cmd := 5, status := {
      done := true, err := true, ovr := false, errcode := 6, lastop := 5 } } := by decide +kernel

/-- V-L1-3, V-L2-CREATE_CHECKSUM-8: the old CHK is not used. -/
theorem test_createChecksum :
    let t := ran { loaded (ascii ['b', 'c']) [0, 1] with chk := 0x12345678 } 0x00000006
    outcome t = (0x00060002, 6, [13, 11, 10, 5, 18, 27]) ∧ t.chk = 0x1ab5165a ∧ t.cksum = 0x1ab5165b := by
      decide +kernel

/-- V-L2-CREATE_CHECKSUM-4: a value of 32 or more is fed as it is. -/
theorem test_createChecksum_wide :
    let t := after (ascii ['b', 'c']) [255] 0x00000006
    outcome t = (0x00060002, 6, [11, 15, 30, 24, 17, 5]) ∧ t.cksum = 0x16ff6225 := by decide +kernel

/-- V-L2-CHARSET_MAP-2. -/
theorem test_charsetMap :
    outcome (after [] [13, 11, 10, 5, 18, 27] 0x00000007) = (0x00070002, 6, (ascii ['d', 't', '2', '9', 'j',
      'm'])) := by decide

/-- V-L2-CHARSET_MAP-4. -/
theorem test_charsetMap_bad :
    (after [] [5, 32] 0x00000007).statusWord = 0x00070406 := by decide

/-- V-L2-REPACK_8TO5-1. -/
theorem test_repack8to5 :
    outcome (after [] [0x75, 0x1e, 0x76, 0xe8, 0x19, 0x91, 0x96, 0xd4, 0x54, 0x94, 0x1c, 0x45, 0xd1, 0xb3, 0xa3,
      0x23, 0xf1, 0x43, 0x3b, 0xd6] 0x00000008) = (0x00080002, 32, [14, 20, 15, 7, 13, 26, 0, 25, 18, 6, 11, 13,
      8, 21, 4, 20, 3, 17, 2, 29, 3, 12, 29, 3, 4, 15, 24, 20, 6, 14, 30, 22]) := by decide +kernel

/-- V-L2-REPACK_8TO5-3: the last group is padded on the right. -/
theorem test_repack8to5_pad :
    outcome (after [] [0x00, 0x01] 0x00000008) = (0x00080002, 4, [0, 0, 0, 16]) := by decide +kernel

/-- V-L2-REPACK_5TO8-1. -/
theorem test_repack5to8 :
    outcome (after [] [14, 20, 15, 7, 13, 26, 0, 25, 18, 6, 11, 13, 8, 21, 4, 20, 3, 17, 2, 29, 3, 12, 29, 3, 4,
      15, 24, 20, 6, 14, 30, 22] 0x00000009) = (0x00090002, 20, [0x75, 0x1e, 0x76, 0xe8, 0x19, 0x91, 0x96, 0xd4,
      0x54, 0x94, 0x1c, 0x45, 0xd1, 0xb3, 0xa3, 0x23, 0xf1, 0x43, 0x3b, 0xd6]) := by decide +kernel

/-- V-L2-REPACK_5TO8-3, V-L2-REPACK_5TO8-4 and V-L2-REPACK_5TO8-6. -/
theorem test_repack5to8_tail :
    outcome (after [] [31, 31] 0x00000009) = (0x00090002, 1, [0xff]) ∧ outcome (after [] [1] 0x00000009) =
      (0x00090002, 0, []) ∧ (after [] [3, 32] 0x00000009).statusWord = 0x00090406 := by decide +kernel

/-- V-L2-B32_ENCODE-1. -/
theorem test_b32Encode :
    let t := after (ascii ['b', 'c']) [0, 1] 0x0000000A
    outcome t = (0x000A0002, 11, (ascii ['b', 'c', '1', 'q', 'p', 'd', 't', '2', '9', 'j', 'm'])) ∧ t.chk =
      0x1ab5165a ∧ t.cksum = 0x1ab5165b := by decide +kernel

/-- V-L2-B32_ENCODE-3 and V-L2-B32_ENCODE-5. -/
theorem test_b32Encode_empty :
    outcome (after [] [] 0x0000000A) = (0x000A0002, 7, (ascii ['1', '0', 'a', '0', '6', 't', '8'])) ∧ (after
      (ascii ['b', 'c']) [5, 32] 0x0000000A).statusWord = 0x000A0406 := by decide +kernel

/-- V-L1-4, V-L2-SEGWIT_ENCODE-1. -/
theorem test_segwitEncode :
    let t := after (ascii ['b', 'c']) [0x75, 0x1e, 0x76, 0xe8, 0x19, 0x91, 0x96, 0xd4, 0x54, 0x94, 0x1c, 0x45,
      0xd1, 0xb3, 0xa3, 0x23, 0xf1, 0x43, 0x3b, 0xd6] 0x0000000B
    outcome t = (0x000B0002, 42, (ascii ['b', 'c', '1', 'q', 'w', '5', '0', '8', 'd', '6', 'q', 'e', 'j', 'x',
      't', 'd', 'g', '4', 'y', '5', 'r', '3', 'z', 'a', 'r', 'v', 'a', 'r', 'y', '0', 'c', '5', 'x', 'w', '7',
      'k', 'v', '8', 'f', '3', 't', '4'])) ∧ t.chk = 0x1874c574 ∧ t.cksum = 0x1874c575 := by decide +kernel

/-- V-L2-SEGWIT_ENCODE-3. -/
theorem test_segwitEncode_empty :
    let t := after (ascii ['b', 'c']) [] 0x0000000B
    outcome t = (0x000B0002, 10, (ascii ['b', 'c', '1', 'q', '9', 'z', 'p', 'g', 'r', 'u'])) ∧ t.chk =
      0x0a20a07d := by decide +kernel

/-- V-L1-5 step 4, V-L2-B58_ENCODE-13. -/
theorem test_b58Encode :
    outcome (after [] [0x00, 0x33, 0xd1, 0x4f, 0xaf, 0xac, 0x97, 0xed, 0x7a, 0x91, 0xc9, 0x98, 0x07, 0xe0, 0x0e,
      0xbc, 0x28, 0x0c, 0x97, 0x3e, 0x5b, 0x08, 0xcc, 0x44, 0x71] 0x00000010) = (0x00100002, 34, (ascii ['1', '5',
      'i', 'z', 'C', 'z', 'A', 'j', 'L', 'Z', 't', 'M', 'Z', 'C', 'h', 'H', 's', 'V', 'r', 'V', 'Q', '1', 'G',
      'm', 'J', '5', 'p', 's', 'P', 'R', 'G', 'L', '6', 'C'])) := by decide +kernel

/-- V-L2-B58_ENCODE-3, V-L2-B58_ENCODE-9, V-L2-DECODE-3. -/
theorem test_b58Encode_small :
    outcome (after [] [0, 0, 1] 0x00000010) = (0x00100002, 3, (ascii ['1', '1', '2'])) ∧ outcome (after []
      [0x3a] 0x00000010) = (0x00100002, 2, (ascii ['2', '1'])) ∧ (ran { State.reset with params := {
      Config.thisHardware with hasB58 := false } } 0x00000010).statusWord = 0x00100106 := by decide +kernel

/-- V-L1-6, V-L2-B58_DECODE-9. -/
theorem test_b58Decode :
    outcome (after [] (ascii ['3', 'B', 'z', 'x', 'i', 'i', 'x', 's', 'r', '6', 'Z', 'K', 'y', 'J', 'k', '9',
      'H', '5', 'M', 'L', 'c', '5', '2', 'R', '7', 'L', 'Z', 'w', '3', 'u', 'z', 'B', 'u', 'y']) 0x00000011) =
      (0x00110002, 25, [0x05, 0x71, 0x16, 0x12, 0x1d, 0xbe, 0xd6, 0x41, 0xfc, 0x7e, 0xaf, 0x02, 0x0d, 0x88, 0x6f,
      0x21, 0xae, 0x92, 0xd7, 0xb3, 0xb4, 0xdb, 0x32, 0x6d, 0x50]) := by decide +kernel

/-- V-L2-B58_DECODE-6 and V-L2-B58_DECODE-10. -/
theorem test_b58Decode_small :
    outcome (after [] (ascii ['1', 'z']) 0x00000011) = (0x00110002, 2, [0x00, 0x39]) ∧ [(ascii ['0']), (ascii
      ['O']), (ascii ['I']), (ascii ['l'])].map (fun d => (after [] d 0x00000011).statusWord) = List.replicate 4
      0x00110406 := by decide +kernel

/-- V-L1-5 step 2, V-L2-EC_PUBKEY-8. -/
theorem test_ecPubkey :
    outcome (after [] [0x5b, 0x56, 0xc4, 0x17, 0x30, 0x3f, 0xaa, 0x3f, 0xcb, 0xa7, 0xe5, 0x74, 0x00, 0xe1, 0x20,
      0xa0, 0xca, 0x83, 0xec, 0x5a, 0x4f, 0xc9, 0xff, 0xba, 0x75, 0x7f, 0xbe, 0x63, 0xfb, 0xd7, 0x7a, 0x89]
      0x00000020) = (0x00200002, 33, [0x03, 0x15, 0x07, 0xac, 0xb2, 0x21, 0x10, 0x91, 0xea, 0x30, 0xc6, 0xab,
      0x95, 0x9d, 0xfe, 0x0e, 0xc0, 0x1f, 0xde, 0x80, 0xd2, 0x72, 0xfa, 0x40, 0x70, 0x99, 0x5d, 0xf5, 0x69, 0x58,
      0xee, 0x6a, 0xe6]) := by decide +kernel

/-- V-L2-EC_PUBKEY-9, V-L2-EC_PUBKEY-10, V-L2-EC_PUBKEY-14. -/
theorem test_ecPubkey_bad :
    [List.replicate 32 0, [0xff, 0xff, 0xff, 0xff, 0xff, 0xff, 0xff, 0xff, 0xff, 0xff, 0xff, 0xff, 0xff, 0xff,
      0xff, 0xfe, 0xba, 0xae, 0xdc, 0xe6, 0xaf, 0x48, 0xa0, 0x3b, 0xbf, 0xd2, 0x5e, 0x8c, 0xd0, 0x36, 0x41, 0x41],
      List.replicate 31 0].map (fun d => (after [] d 0x00000020).statusWord) = [0x00200506, 0x00200506,
      0x00200306] := by decide +kernel

/-- V-L2-ZEROIZE-1, V-L2-ZEROIZE-2: a scalar and a key are cleared, OVR and CTRL stay. -/
theorem test_zeroize :
    let s : State :=
      { loaded [] [0x5b, 0x56] with
        outBuf := Memory.writeRun { cells := [], fill := 1 } 0 [3, 21]
        dstLen := 2, irqEn := true, cksum := 5, chk := 7, status := { Status.cleared with ovr := true } }
    let t := ran s 0x00000030
    t.inBuf.bytes 0 4 = [0, 0, 0, 0] ∧ t.outBuf.bytes 0 4 = [0, 0, 0, 0] ∧ t.srcLen = 0 ∧ t.dstLen = 0 ∧ t.chk =
      1 ∧ t.cksum = 0 ∧ t.irqEn = true ∧ t.statusWord = 0x0030000A := by decide +kernel

/-- V-L2-ZEROIZE-3. -/
theorem test_zeroize_reserved :
    (after [] [1] 0x00010030).statusWord = 0x00300206 ∧ (after [] [1] 0x00010030).inBuf.byte 0 = 1 := by decide

/-! ### Decode errors, the bus and the resets -/

/-- V-L2-DECODE-9 and V-L2-DECODE-5. -/
theorem test_in_length :
    (ran { State.reset with hrpLen := 200, srcLen := 57 } 0x00000004).statusWord = 0x00040306 ∧ (ran {
      State.reset with srcLen := 300 } 0x00010020).statusWord = 0x00200206 := by decide

/-- V-L2-DECODE-12: STATUS at acceptance. -/
theorem test_accept :
    ({ State.reset with status := { done := true, err := true, ovr := false, errcode := 1, lastop := 0x0C }
      }.busWrite 0x014 6).statusWord = 0x00060001 := by decide

/-- V-L2-DECODE-11: a write while BUSY only sets OVR. -/
theorem test_dropped :
    ((State.reset.accept 1).busWrite 0x014 0x00000102).statusWord = 0x00010009 ∧ ((State.reset.accept
      1).busWrite 0x014 0x00000102).cmd = 1 := by decide

/-- V-L2-BUS-1 and V-L2-BUS-2. -/
theorem test_bus_lanes :
    (loaded [0x62, 0x63] [0x75, 0x1e]).readWord 0x1000 = 0x1e756362 ∧ (State.reset.busWrite 0x1000
      0x01006362).inBuf.bytes 0 4 = [0x62, 0x63, 0, 1] := by decide

/-- V-L2-BUS-3, V-L2-BUS-4, V-L2-BUS-5. -/
theorem test_bus_registers :
    [0x000, 0x004, 0x008, 0x014, 0x02C, 0x2100].map State.reset.readWord = [0x42433332, 0x00000003, 0x01000100,
      0, 0, 0] := by decide

/-- V-L2-BUS-6. -/
theorem test_bus_error :
    busTransact State.reset 0x000 1 .read = .fault .busErrorWidth ∧ busTransact State.reset 0x002 4 .read =
      .fault .busErrorAlign := by exact ⟨rfl, rfl⟩

/-- V-L2-BUS-7, V-L2-BUS-8, V-L2-BUS-9. -/
theorem test_bus_fields :
    (State.reset.busWrite 0x024 0xFFFFFFFF).readWord 0x024 = 0x3FFFFFFF ∧ (State.reset.busWrite 0x018
      0x00120005).readWord 0x018 = 5 ∧ State.reset.busWrite 0x000 0 = State.reset ∧ State.reset.busWrite 0x2000
      0x12345678 = State.reset := by decide

/-- V-L2-BUS-10 and V-L2-SRST-1. -/
theorem test_soft_reset :
    let s := { loaded [0x62, 0x63] [] with irqEn := true, chk := 0x1874c574, status := { Status.cleared with
      done := true, ovr := true, lastop := 0x0B } }
    s.statusWord = 0x000B000A ∧ s.busWrite 0x00C 3 = { State.reset with inBuf := s.inBuf } := by decide

/-- V-L2-SRST-2: the command never completes, IN_BUF stays, OUT_BUF gets a draw of its own. -/
theorem test_soft_reset_aborts :
    let s := (loaded [] [7]).accept 0x20
    s.busWrite 0x00C 2 = { State.reset with inBuf := s.inBuf, outBuf := { cells := [], fill := 2 }, draws := 4 }
      := by decide

/-- The CLR of R103 after V-L2-DECODE-1. -/
theorem test_clr :
    ((after [] [] 0x0000000C).busWrite 0x010 0xE).statusWord = 0x000C0000 ∧ (after [] [] 0x0000000C).statusWord
      = 0x000C0106 := by decide

/-- The first word LOAD writes in program P1, and its last. -/
theorem test_host_load :
    (pseudoLOAD 0 0 [0x62, 0x63, 0x75, 0x1e, 0x3b, 0xd6]) = [.wr 0x1000 4 (.lit 0x1e756362), .wr 0x1004 4 (.lit
      0x0000d63b)] := by decide

/-- The host's WR reaches the block. -/
theorem test_host_step :
    step (hosted State.reset [stmtWR 0 .srcLen (.lit 20)]) =
      .next { State.reset with
        srcLen := 20, resp := some (.okay none)
        host := { prog := [stmtWR 0 .srcLen (.lit 20)], pos := 1, names := [], expectFailed := false } } := by rfl

/-- WAIT's branch reads bit 0 of the name it bound (R103). -/
theorem test_host_names :
    (Cond.eq (.bits (.name 5) 0 0) (.lit 1)).eval [(5, 0x00060001)] false = some true ∧ (Cond.eq (.bits (.name
      5) 2 2) (.lit 1)).eval [(5, 0x00060001)] false = some false ∧ (Cond.eq (.name 4) (.lit 1)).eval [(5, 1)]
      false = none := by decide

/-- A byte read out and loaded again, as in program P3. -/
theorem test_host_reload :
    (loadExpr [readoutExpr 7 0, readoutExpr 7 1, readoutExpr 7 2, readoutExpr 7 3] 0).eval [(7, 0x7a693531)] =
      some 0x7a693531 := by decide

/-- Program P2b: after `EXPECT false` the program goes on to its CLR, as P2b's end state shows. -/
theorem test_host_expect :
    step (hosted State.reset [.expect .never]) =
      .next { State.reset with
        host := { prog := [.expect .never], pos := 1, names := [], expectFailed := true } } := by rfl

/-- The test of R104's step 5 on a STATUS word of 95_test_vectors.md section 4: BAD_SYMBOL goes to the fourth
  label, a success to none. -/
theorem test_host_outcome :
    (testOutcome 9 20).map (fun st => match st with
      | .ifGoto c l => (c.eval [(9, 0x00070406)] false, c.eval [(9, 0x00070002)] false, l)
      | _ => (none, none, 0)) =
    [(some false, some false, 21), (some false, some false, 22), (some false, some false, 23), (some true, some
      false, 24), (some false, some false, 25), (some false, some false, 26)] := by decide

/-- The source's own vectors, as the audit of 00_scope.md R7 lists them, on the pure functions: expand, polymod,
  createChecksum, the segwit address from its key's HASH160, that key as compress(G), the legacy address from its
  payload, the P2SH address to its payload. The seed's key is `test_ecPubkey`; hashes and PBKDF2 are the host's
  (R5). -/
theorem test_source_vectors :
    expandHrp (ascii ['b', 'c']) = [3, 3, 0, 2, 3] ∧ polymod [0, 1] = 1025 ∧ groups6 (checksum30 (ascii ['b',
      'c']) [0, 1]) = [13, 11, 10, 5, 18, 27] ∧ address (ascii ['b', 'c']) (0 :: repack85 [0x75, 0x1e, 0x76, 0xe8,
      0x19, 0x91, 0x96, 0xd4, 0x54, 0x94, 0x1c, 0x45, 0xd1, 0xb3, 0xa3, 0x23, 0xf1, 0x43, 0x3b, 0xd6]) = (ascii
      ['b', 'c', '1', 'q', 'w', '5', '0', '8', 'd', '6', 'q', 'e', 'j', 'x', 't', 'd', 'g', '4', 'y', '5', 'r',
      '3', 'z', 'a', 'r', 'v', 'a', 'r', 'y', '0', 'c', '5', 'x', 'w', '7', 'k', 'v', '8', 'f', '3', 't', '4']) ∧
      compress pointG = [0x02, 0x79, 0xbe, 0x66, 0x7e, 0xf9, 0xdc, 0xbb, 0xac, 0x55, 0xa0, 0x62, 0x95, 0xce, 0x87,
      0x0b, 0x07, 0x02, 0x9b, 0xfc, 0xdb, 0x2d, 0xce, 0x28, 0xd9, 0x59, 0xf2, 0x81, 0x5b, 0x16, 0xf8, 0x17, 0x98]
      ∧ b58enc [0x00, 0x33, 0xd1, 0x4f, 0xaf, 0xac, 0x97, 0xed, 0x7a, 0x91, 0xc9, 0x98, 0x07, 0xe0, 0x0e, 0xbc,
      0x28, 0x0c, 0x97, 0x3e, 0x5b, 0x08, 0xcc, 0x44, 0x71] = (ascii ['1', '5', 'i', 'z', 'C', 'z', 'A', 'j', 'L',
      'Z', 't', 'M', 'Z', 'C', 'h', 'H', 's', 'V', 'r', 'V', 'Q', '1', 'G', 'm', 'J', '5', 'p', 's', 'P', 'R',
      'G', 'L', '6', 'C']) ∧ b58dec (ascii ['3', 'B', 'z', 'x', 'i', 'i', 'x', 's', 'r', '6', 'Z', 'K', 'y', 'J',
      'k', '9', 'H', '5', 'M', 'L', 'c', '5', '2', 'R', '7', 'L', 'Z', 'w', '3', 'u', 'z', 'B', 'u', 'y']) =
      [0x05, 0x71, 0x16, 0x12, 0x1d, 0xbe, 0xd6, 0x41, 0xfc, 0x7e, 0xaf, 0x02, 0x0d, 0x88, 0x6f, 0x21, 0xae, 0x92,
      0xd7, 0xb3, 0xb4, 0xdb, 0x32, 0x6d, 0x50] := by decide +kernel


/-! ### Witnesses: concrete states and operands that meet the hypotheses of each statement -/

/-- A state in which the command word `w` is accepted and the engine moves next. -/
def flight (h d : List Byte) (w : Word) : State := (loaded h d).withCommand w

/-- The same on a block with other parameters. -/
def flightOn (p : Params) (h d : List Byte) (w : Word) : State := { flight h d w with params := p }

/-- A block with neither option. -/
def bare : Params := { Config.thisHardware with hasB58 := false, hasEcmul := false }

/-- A block with the smallest output buffer. -/
def narrow : Params := { Config.thisHardware with obufSize := 64 }

/-- A 32-byte scalar with the given last byte. -/
def scalarOf (k : Byte) : List Byte := List.replicate 31 0 ++ [k]

/-- A good flight, as the checks the kernel evaluates. -/
def goodFlight (s : State) : Bool := s.inv && s.pending && decide (s.mover = .engine)

theorem goodFlight_inFlight {s : State} (h : goodFlight s = true) : s.inFlight := by
  simp only [goodFlight, Bool.and_eq_true] at h
  exact h.1

theorem witness_DecodeOfEncodeIsTheCommand :
    Instr.wf bare (.polyStep 0xFF) = true ∧ Instr.wf Config.thisHardware .ecPubkey = true := by decide

/-- Any word in flight after reset, with either set of options, makes a good flight. -/
theorem goodFlight_flight (p : Params) (hp : p = bare ∨ p = Config.thisHardware) (w : Word) :
    goodFlight (flightOn p [] [] w) = true := by
  have hlast : (flightOn p [] [] w).status.lastop = (flightOn p [] [] w).cmd.extractLsb' 0 8 := rfl
  simp only [goodFlight, State.inv, State.statusWf, hlast, decide_true, Bool.and_true]
  rcases hp with rfl | rfl <;> simp [flightOn, flight, loaded, State.withCommand, State.accept, Status.accepted,
    State.buffersWf, State.drawsWf, State.mover, State.reset, bare, Config.thisHardware, Params.legal, legalBufSize,
    Memory.wf, Memory.writeRun, cellsFrom, risingCells]

/-- Every end of the illegal ranges, both absent options, and the legal neighbours. -/
theorem witness_IllegalWordsCompleteWithIllegalOp :
    (∀ w, goodFlight (flightOn bare [] [] w) = true ∧ goodFlight (flightOn Config.thisHardware [] [] w) = true) ∧
    (∀ w ∈ [0x0C, 0x0F, 0x12, 0x1F, 0x21, 0x2F, 0x31, 0xFF], illegalWord Config.thisHardware w) ∧
    (∀ w ∈ [0x10, 0x11, 0x20], illegalWord bare w) ∧
    (∀ w ∈ [0x00, 0x0B, 0x10, 0x11, 0x20, 0x30], ¬ illegalWord Config.thisHardware w) := by
  refine ⟨fun w => ⟨goodFlight_flight _ (.inl rfl) w, goodFlight_flight _ (.inr rfl) w⟩, ?_⟩
  simp only [List.mem_cons, List.not_mem_nil, or_false, forall_eq_or_imp, forall_eq, illegalWord]
  refine ⟨⟨?_, ?_, ?_, ?_, ?_, ?_, ?_, ?_⟩, ⟨?_, ?_, ?_⟩, ?_, ?_, ?_, ?_, ?_, ?_⟩ <;> decide

theorem witness_ReservedFieldsCompleteWithReservedField :
    (∀ w, goodFlight (flightOn Config.thisHardware [] [] w) = true) ∧
    (∀ w ∈ [0x00010000, 0x80000002, 0x00000100, 0x0000FF30],
      ¬ illegalWord Config.thisHardware w ∧ reservedWord w) ∧
    (∀ w ∈ [0x00000000, 0x0000FF02, 0x00000030], ¬ illegalWord Config.thisHardware w ∧ ¬ reservedWord w) := by
  refine ⟨goodFlight_flight _ (.inr rfl), ?_⟩
  simp only [List.mem_cons, List.not_mem_nil, or_false, forall_eq_or_imp, forall_eq, illegalWord, reservedWord]
  refine ⟨⟨⟨?_, ?_⟩, ⟨?_, ?_⟩, ⟨?_, ?_⟩, ?_, ?_⟩, ⟨?_, ?_⟩, ⟨?_, ?_⟩, ?_, ?_⟩ <;> decide

theorem witness_StepRunsTheDecodedCommand :
    (flight [] [] 0x0000FF02).mover = .engine ∧ (flight [] [] 0x0000FF02).pending = true ∧
      decode (flight [] [] 0x0000FF02).params (flight [] [] 0x0000FF02).cmd = .ok (.polyStep 0xFF) := by decide

theorem witness_CmdWriteWhileIdleIsAccepted : State.reset.pending = false := by decide

theorem witness_EngineCompletesExactlyWhilePending :
    State.reset.pending = false ∧ (flight [] [] 0x0C).pending = true := by decide

/-- A rejected word, and each error a command's rule can give. -/
theorem witness_ErrorsArePrecise :
    (∃ t, engineStep (flight [] [] 0x0C) = .next t ∧ t.status.err = true) ∧
    (goodFlight (flightOn bare [] [] 0x20) = true ∧
      fitOutput bare (ruleOf .ecPubkey (flightOn bare [] [] 0x20)) = .error .illegalOp) ∧
    (goodFlight (flight [] [1] 0x20) = true ∧
      fitOutput Config.thisHardware (ruleOf .ecPubkey (flight [] [1] 0x20)) = .error .inLength) ∧
    (goodFlight (flight [] [5, 32] 0x07) = true ∧
      fitOutput Config.thisHardware (ruleOf .charsetMap (flight [] [5, 32] 0x07)) = .error .badSymbol) ∧
    (goodFlight (flight [] (scalarOf 0) 0x20) = true ∧
      fitOutput Config.thisHardware (ruleOf .ecPubkey (flight [] (scalarOf 0) 0x20)) = .error .invalidPrivateKey) ∧
    (goodFlight (flightOn narrow [] (List.replicate 65 0) 0x07) = true ∧
      fitOutput narrow (ruleOf .charsetMap (flightOn narrow [] (List.replicate 65 0) 0x07)) = .error .outLength) := by
  refine ⟨⟨_, rfl, by decide⟩, ?_⟩
  decide +kernel

/-- A completion for each clause: an illegal and a reserved word, an overlong region, each error of a rule, an output
that is too long and a success. -/
theorem witness_ErrorsFollowTheirOrder :
    (∃ t, engineStep (flight [] [] 0x0C) = .next t ∧ illegalWord Config.thisHardware 0x0C) ∧
    (∃ t, engineStep (flight [] [] 0x100) = .next t ∧ ¬ illegalWord Config.thisHardware 0x100 ∧ reservedWord 0x100) ∧
    (let s := { flight [] [] 0x03 with hrpLen := 200, srcLen := 57 }
     decode s.params s.cmd = .ok .polyHrp ∧ s.params.ibufSize < s.hrpLen.toNat + s.srcLen.toNat) ∧
    (let s := flight [] [1] 0x20
     decode s.params s.cmd = .ok .ecPubkey ∧ s.regionsFit = true ∧ s.srcLen.toNat ≠ 32) ∧
    (let s := flight [] [32] 0x09
     decode s.params s.cmd = .ok .repack5to8 ∧ s.regionsFit = true ∧ ¬ s.dataIsSymbols) ∧
    (let s := flight [] [0x30] 0x11
     decode s.params s.cmd = .ok .b58Decode ∧ s.regionsFit = true ∧ (0x30 : Byte) ∈ s.regionD ∧ ¬ inAlpha 0x30) ∧
    (let s := flight [] (beBytes 32 curveOrder) 0x20
     decode s.params s.cmd = .ok .ecPubkey ∧ s.regionsFit = true ∧ s.srcLen.toNat = 32 ∧ curveOrder ≤ s.scalar) ∧
    (let s := flightOn narrow (List.replicate 32 0) [] 0x05
     decode s.params s.cmd = .ok .expand ∧ ∃ r, ruleOf .expand s = .ok r ∧ s.params.obufSize < (r.out.getD []).length) ∧
    (decode Config.thisHardware 0 = .ok .nop ∧ ∃ r, ruleOf .nop (flight [] [] 0) = .ok r) := by
  unfold illegalWord reservedWord State.dataIsSymbols inAlpha; dsimp only
  refine ⟨⟨_, rfl, ?_⟩, ⟨_, rfl, ?_, ?_⟩, ?_, ?_, ?_, ?_, ?_, ⟨?_, _, rfl, ?_⟩, ?_, ⟨_, rfl⟩⟩ <;> decide +kernel

/-- Each absent option; regions one byte too long; a command that reads no buffer. -/
theorem witness_AbsentOptionsAndOverlongRegionsFail :
    (∀ i ∈ [Instr.b58Encode, .b58Decode, .ecPubkey], goodFlight (flightOn bare [] [] (encode i)) = true ∧
      i.wf bare = false) ∧
    (let s := { flight [] [] 0x03 with hrpLen := 200, srcLen := 57 }
     goodFlight s = true ∧ Instr.wf s.params .polyHrp = true ∧ readsInBuf .polyHrp = true ∧
      s.params.ibufSize < s.hrpLen.toNat + s.srcLen.toNat) ∧
    (goodFlight (flight [] [] 0x30) = true ∧ readsInBuf .zeroize = false) := by decide +kernel

theorem witness_BadValuesGiveBadSymbol :
    (goodFlight (flight [] [31, 32] 0x07) = true ∧ (flight [] [31, 32] 0x07).regionsFit = true ∧
      (32 : Byte) ∈ (flight [] [31, 32] 0x07).regionD ∧ 32 ≤ (32 : Byte).toNat) ∧
    (∀ c ∈ [0x30, 0x40, 0x49, 0x4F, 0x5B, 0x60, 0x6C, 0x7B, 0xFF], goodFlight (flight [] [c] 0x11) = true ∧
      (flight [] [c] 0x11).regionsFit = true ∧ (flight [] [c] 0x11).params.hasB58 = true ∧
      c ∈ (flight [] [c] 0x11).regionD ∧ ¬ inAlpha c) := by
  unfold inAlpha; decide +kernel

/-- One byte more than the smallest output buffer holds, for each command. -/
theorem witness_LongResultsGiveOutLength :
    (let s := flightOn narrow (List.replicate 32 0) [] 0x05
     goodFlight s = true ∧ s.regionsFit = true ∧ s.params.obufSize < 2 * s.hrpLen.toNat + 1) ∧
    (let s := flightOn narrow [] (List.replicate 65 31) 0x07
     goodFlight s = true ∧ s.regionsFit = true ∧ s.dataIsSymbols ∧ s.params.obufSize < s.srcLen.toNat) ∧
    (let s := flightOn narrow [] (List.replicate 41 0xFF) 0x08
     goodFlight s = true ∧ s.regionsFit = true ∧ s.params.obufSize < (8 * s.srcLen.toNat + 4) / 5) ∧
    (let s := flightOn narrow [] (List.replicate 104 31) 0x09
     goodFlight s = true ∧ s.regionsFit = true ∧ s.dataIsSymbols ∧ s.params.obufSize < 5 * s.srcLen.toNat / 8) ∧
    (let s := flightOn narrow [] (List.replicate 58 31) 0x0A
     goodFlight s = true ∧ s.regionsFit = true ∧ s.dataIsSymbols ∧
      s.params.obufSize < s.hrpLen.toNat + s.srcLen.toNat + 7) ∧
    (let s := flightOn narrow [0x61] (List.replicate 35 0) 0x0B
     goodFlight s = true ∧ s.regionsFit = true ∧
      s.params.obufSize < s.hrpLen.toNat + 8 + (8 * s.srcLen.toNat + 4) / 5) ∧
    (let s := flightOn narrow [] (List.replicate 65 0) 0x10
     goodFlight s = true ∧ s.regionsFit = true ∧ s.params.hasB58 = true ∧
      s.params.obufSize < (b58enc s.regionD).length) ∧
    (let s := flightOn narrow [] (List.replicate 65 0x31) 0x11
     goodFlight s = true ∧ s.regionsFit = true ∧ s.params.hasB58 = true ∧ (∀ c ∈ s.regionD, inAlpha c) ∧
      s.params.obufSize < (b58dec s.regionD).length) := by
  unfold State.dataIsSymbols inAlpha; dsimp only
  refine ⟨?_, ?_, ?_, ?_, ?_, ?_, ?_, ?_⟩ <;> decide +kernel

/-- Lengths 31 and 33; the scalars 0, n and 2^256 - 1. -/
theorem witness_EcPubkeyRejectsBadScalars :
    (∀ d ∈ [List.replicate 31 1, List.replicate 33 1], goodFlight (flight [] d 0x20) = true ∧
      (flight [] d 0x20).regionsFit = true ∧ (flight [] d 0x20).srcLen.toNat ≠ 32) ∧
    (goodFlight (flight [] (scalarOf 0) 0x20) = true ∧ (flight [] (scalarOf 0) 0x20).regionsFit = true ∧
      (flight [] (scalarOf 0) 0x20).srcLen.toNat = 32 ∧ (flight [] (scalarOf 0) 0x20).scalar = 0) ∧
    (∀ d ∈ [beBytes 32 curveOrder, List.replicate 32 0xFF], goodFlight (flight [] d 0x20) = true ∧
      (flight [] d 0x20).regionsFit = true ∧ (flight [] d 0x20).srcLen.toNat = 32 ∧
      curveOrder ≤ (flight [] d 0x20).scalar) := by
  decide +kernel

theorem witness_NopTouchesOnlyStatus : (flight [] [] 0x00).inFlight := goodFlight_inFlight (by decide)

theorem witness_PolyInitSetsChkToOne : (flight [] [] 0x01).inFlight := goodFlight_inFlight (by decide)

theorem witness_PolyStepAdvancesChk : (flight [] [] 0xFF02).inFlight := goodFlight_inFlight (by decide)

theorem witness_ZeroizeClearsOperandsAndResults : (flight [] [7] 0x30).inFlight := goodFlight_inFlight (by decide)

theorem witness_CreateChecksumWritesTheSixSymbols :
    (flight [0x62, 0x63] [0, 255] 0x06).inFlight ∧ (flight [0x62, 0x63] [0, 255] 0x06).regionsFit = true :=
  ⟨goodFlight_inFlight (by decide), by decide⟩

/-- Regions that fill IN_BUF to its last byte, empty regions, and a plain pair. -/
theorem witness_PolyHrpAndPolyDataFeedTheirRegions :
    (let s := { flight [] [] 0x03 with hrpLen := 200, srcLen := 56 }
     goodFlight s = true ∧ s.regionsFit = true) ∧
    (goodFlight (flight [] [] 0x06) = true ∧ (flight [] [] 0x06).regionsFit = true) ∧
    (goodFlight (flight [0x62, 0x63] [0, 1] 0x04) = true ∧ (flight [0x62, 0x63] [0, 1] 0x04).regionsFit = true) := by
  decide +kernel

/-- The longest H whose expansion fits: 127 bytes. -/
theorem witness_ExpandWritesTheExpansion :
    let s := { flight [] [] 0x05 with hrpLen := 127 }
    goodFlight s = true ∧ s.regionsFit = true ∧ 2 * s.hrpLen.toNat + 1 ≤ s.params.obufSize := by decide +kernel

/-- 64 values fill the smallest output buffer. -/
theorem witness_CharsetMapMapsTheData :
    (0 : Byte).toNat < 32 ∧ (31 : Byte).toNat < 32 ∧
    let s := flightOn narrow [] (List.replicate 64 31) 0x07
    goodFlight s = true ∧ s.regionsFit = true ∧ s.dataIsSymbols ∧ s.srcLen.toNat ≤ s.params.obufSize := by
  unfold State.dataIsSymbols; dsimp only; decide +kernel

theorem witness_Repack8to5WritesTheGroups :
    let s := flightOn narrow [] (List.replicate 40 0xFF) 0x08
    goodFlight s = true ∧ s.regionsFit = true ∧ (8 * s.srcLen.toNat + 4) / 5 ≤ s.params.obufSize := by
  decide +kernel

theorem witness_Repack5to8WritesTheBytes :
    let s := flightOn narrow [] (List.replicate 103 31) 0x09
    goodFlight s = true ∧ s.regionsFit = true ∧ s.dataIsSymbols ∧ 5 * s.srcLen.toNat / 8 ≤ s.params.obufSize := by
  unfold State.dataIsSymbols; decide +kernel

theorem witness_B32EncodeWritesTheString :
    let s := flightOn narrow [0x62] (List.replicate 56 31) 0x0A
    goodFlight s = true ∧ s.regionsFit = true ∧ s.dataIsSymbols ∧
      s.hrpLen.toNat + 1 + s.srcLen.toNat + 6 ≤ s.params.obufSize := by
  unfold State.dataIsSymbols; decide +kernel

theorem witness_SegwitEncodeWritesTheAddress :
    let s := flightOn narrow [] (List.replicate 35 0xFF) 0x0B
    goodFlight s = true ∧ s.regionsFit = true ∧
      s.hrpLen.toNat + 8 + (8 * s.srcLen.toNat + 4) / 5 ≤ s.params.obufSize := by
  decide +kernel

theorem witness_B58EncodeWritesTheString :
    let s := flightOn narrow [] (List.replicate 64 0) 0x10
    goodFlight s = true ∧ s.params.hasB58 = true ∧ s.regionsFit = true ∧
      (b58enc s.regionD).length ≤ s.params.obufSize := by
  decide +kernel

/-- The two ends of each range of the alphabet. -/
theorem witness_B58DecodeWritesTheBytes :
    let s := flight [] [0x31, 0x39, 0x41, 0x48, 0x4A, 0x4E, 0x50, 0x5A, 0x61, 0x6B, 0x6D, 0x7A] 0x11
    goodFlight s = true ∧ s.params.hasB58 = true ∧ s.regionsFit = true ∧ (∀ c ∈ s.regionD, inAlpha c) ∧
      (b58dec s.regionD).length ≤ s.params.obufSize := by
  unfold inAlpha; decide +kernel

/-- The scalars 1 and n - 1. -/
theorem witness_EcPubkeyWritesTheCompressedMultiple :
    ∀ d ∈ [scalarOf 1, beBytes 32 (curveOrder - 1)], goodFlight (flight [] d 0x20) = true ∧
      (flight [] d 0x20).params.hasEcmul = true ∧ (flight [] d 0x20).regionsFit = true ∧
      (flight [] d 0x20).srcLen.toNat = 32 ∧ 1 ≤ (flight [] d 0x20).scalar ∧
      (flight [] d 0x20).scalar < curveOrder := by
  decide +kernel

theorem witness_RepackRoundTrips :
    (∀ x ∈ ([31, 0, 17, 4, 9, 31, 1, 2] : List Byte), x.toNat < 32) ∧
      5 * ([31, 0, 17, 4, 9, 31, 1, 2] : List Byte).length % 8 = 0 ∧
    (∀ x ∈ ([31, 31] : List Byte), x.toNat < 32) ∧ repack85 (repack58 [31, 31]) = [31, 28] := by decide

theorem witness_SegwitIsB32OfTheRepackedProgram :
    let s := flight [0x62, 0x63] [0xFF] 0x0B
    let u := flight [0x62, 0x63] [0, 31, 28] 0x0A
    goodFlight s = true ∧ goodFlight u = true ∧ s.regionsFit = true ∧ u.regionsFit = true ∧ s.params = u.params ∧
      s.regionH = u.regionH ∧ u.regionD = 0 :: repack85 s.regionD ∧ s.outBuf = u.outBuf ∧ s.dstLen = u.dstLen ∧
      s.chk = u.chk ∧ s.cksum = u.cksum := by
  decide +kernel

theorem witness_B58RoundTrips : ∀ c ∈ ([0x31, 0x7A, 0x48, 0x4A] : List Byte), inAlpha c := by
  unfold inAlpha; decide

theorem witness_B58KeepsLeadingZeros :
    leadingCount 0x00 [0x61, 0x00] = 0 ∧ b58enc [0x00, 0x00, 0x01] = ascii ['1', '1', '2'] := by decide +kernel

theorem witness_DoubleAndAddIsTheSum :
    pointG.onCurve = true ∧ Point.infinity.onCurve = true ∧ 2 ^ 256 - 1 < 2 ^ 256 := by decide +kernel

theorem witness_GeneratorHasOrderN : 1 ≤ curveOrder - 1 ∧ curveOrder - 1 < curveOrder := by decide

/-- The first and the last word of each buffer. -/
theorem witness_BufferWordsAreLittleEndian :
    State.reset.params.legal = true ∧ 4 * 0 < State.reset.params.ibufSize ∧ 4 * 63 < State.reset.params.ibufSize ∧
      4 * 63 < State.reset.params.obufSize := by decide

theorem witness_IdleWritesStoreTheirBits :
    BitVec.getLsbD (0x1 : Word) 1 = false ∧ State.reset.params.legal = true ∧ State.reset.pending = false ∧
      4 * 63 < State.reset.params.ibufSize := by decide

theorem witness_RegistersReadAsTheirFields : (flight [] [] 0x06).params.legal = true := by decide

/-- The ends of the OUT_BUF range while pending, a read while idle, and offsets on both sides of the result offsets that
are none: registers, a reserved offset, IN_BUF, the first offset beyond OBUF_SIZE. -/
theorem witness_ResultReadsWhilePendingAreFree :
    (flight [] [] 0x06).pending = true ∧ State.reset.pending = false ∧
    (∀ o ∈ [0x2000, 0x20FC], 0x2000 ≤ o ∧ o < 0x3000 ∧ o - 0x2000 < (flight [] [] 0x06).params.obufSize) ∧
    (∀ o ∈ [0x000, 0x01C, 0x02C, 0xFFC, 0x1000, 0x1FFC, 0x2100, 0x2FFC],
      ¬ (o = 0x020 ∨ o = 0x024 ∨ o = 0x028 ∨
        (0x2000 ≤ o ∧ o < 0x3000 ∧ o - 0x2000 < (flight [] [] 0x06).params.obufSize))) := by
  decide

/-- A register read, a free read, a read outside the window; a label, a branch taken, an EXPECT that fails. -/
theorem witness_ReadsLeaveTheBlockUnchanged :
    (∃ t, hostStatement State.reset (.rd 0x000 4 0) = .next t) ∧
    (∃ t, hostStatement (flight [] [] 0x06) (.rd 0x2000 4 0) = .next t) ∧
    (∃ t, hostStatement State.reset (.rd 0x3000 1 0) = .next t) ∧
    (∃ t, hostStatement State.reset (.label 1) = .next t) ∧
    (∃ t, hostStatement (hosted State.reset [.label 1]) (.ifGoto (.not .never) 1) = .next t) ∧
    (∃ t, hostStatement State.reset (.expect .never) = .next t) ∧
    Cond.eval State.reset.host.names State.reset.irq .never = some false :=
  ⟨⟨_, rfl⟩, ⟨_, rfl⟩, ⟨_, rfl⟩, ⟨_, rfl⟩, ⟨_, rfl⟩, ⟨_, rfl⟩, rfl⟩

/-- A pending command, and the ends of the IN_BUF range; words with each bit either way. -/
theorem witness_WritesWhilePendingAreDropped :
    (flight [] [] 0x06).pending = true ∧
    (∀ o ∈ [0x1000, 0x10FC], 0x1000 ≤ o ∧ o < 0x2000 ∧ o - 0x1000 < (flight [] [] 0x06).params.ibufSize) ∧
    BitVec.getLsbD (0x1 : Word) 1 = false ∧ BitVec.getLsbD (0x2 : Word) 1 = true ∧
    BitVec.getLsbD (0x8 : Word) 3 = true := by decide

theorem witness_ReadOnlyAndReservedIgnoreWrites :
    (∀ o ∈ [0x02C, 0xFFC], 0x02C ≤ o ∧ o < 0x1000) ∧ (∀ o ∈ [0x2000, 0x2FFC], 0x2000 ≤ o ∧ o < 0x3000) ∧
    (∀ o ∈ [0x1100, 0x1FFC], 0x1000 + State.reset.params.ibufSize ≤ o ∧ o < 0x2000) ∧
    (∀ o ∈ [0x2100, 0x2FFC], 0x2000 + State.reset.params.obufSize ≤ o ∧ o < 0x3000) ∧
    State.reset.pending = false := by decide

/-- Both ends of the window, from inside and outside, on a block whose BASE is not 0. -/
theorem witness_AccessesAreAlignedWordsInTheWindow :
    let s := { State.reset with params := { Config.thisHardware with base := 0x1000 } }
    0xFFF < s.params.base ∧ s.params.base + 0x3000 ≤ 0x4000 ∧
    (∀ a ∈ [0x1000, 0x1001, 0x3FFC, 0x3FFF], s.params.base ≤ a ∧ a < s.params.base + 0x3000) ∧
    (0x1001 - s.params.base) % 4 ≠ 0 ∧ (0x1000 - s.params.base) % 4 = 0 ∧ (0x3FFC - s.params.base) % 4 = 0 ∧
    Expr.eval s.host.names (.lit 7) = some 7 := by decide

/-- Idle, a pending command, and a pending ZEROIZE. -/
theorem witness_SoftResetRestoresTheTable :
    BitVec.getLsbD (0x2 : Word) 1 = true ∧ State.reset.pending = false ∧
    (flight [] [] 0x20).pending = true ∧ (flight [] [] 0x20).cmd.extractLsb' 0 8 ≠ 0x30 ∧
    (flight [] [] 0x30).pending = true ∧ (flight [] [] 0x30).cmd.extractLsb' 0 8 = 0x30 := by decide

theorem witness_PowerOnResetRestoresTheTable :
    State.mover { flight [] [] 0x20 with turns := [.powerOn] } = .powerOn := by decide

/-- A completion, a host write and a power-on reset, each from a good state. -/
theorem witness_EveryStepKeepsTheInvariant :
    (goodFlight (flight [0x62] [1] 0x06) = true ∧ ∃ t, step (flight [0x62] [1] 0x06) = .next t) ∧
    ((hosted State.reset [stmtWR 0 .cmd (.lit 6)]).inv = true ∧
      ∃ t, step (hosted State.reset [stmtWR 0 .cmd (.lit 6)]) = .next t) ∧
    (State.inv { State.reset with turns := [.powerOn] } = true ∧
      ∃ t, step { State.reset with turns := [.powerOn] } = .next t) :=
  ⟨⟨by decide, ⟨_, rfl⟩⟩, ⟨by decide, ⟨_, rfl⟩⟩, ⟨by decide, ⟨_, rfl⟩⟩⟩

theorem witness_OnlyZeroizeWritesTheOperands :
    Instr.createChecksum ≠ .zeroize ∧ ∃ t, exec .createChecksum (flight [0x62] [1] 0x06) = .next t :=
  ⟨by decide, ⟨_, rfl⟩⟩

theorem witness_IdentityNeverChanges : ∃ t, step (flight [0x62] [1] 0x06) = .next t := ⟨_, rfl⟩

/-- OVR cleared by each of the ways the statement names. -/
theorem witness_OvrIsClearedOnlyByTheHostOrAReset :
    let ovr := { Status.cleared with ovr := true }
    (∃ t, step (hosted { State.reset with status := ovr } [stmtWR 0 .status (.lit 8)]) = .next t ∧
      t.status.ovr = false) ∧
    (∃ t, step (hosted { State.reset with status := ovr } [stmtWR 0 .ctrl (.lit 2)]) = .next t ∧
      t.status.ovr = false) ∧
    (∃ t, step { State.reset with status := ovr, turns := [.powerOn] } = .next t ∧ t.status.ovr = false) :=
  ⟨⟨_, rfl, by decide⟩, ⟨_, rfl, by decide⟩, ⟨_, rfl, by decide⟩⟩

theorem witness_CommandsStartOnlyByACmdWrite :
    (hosted State.reset [stmtWR 0 .cmd (.lit 6)]).pending = false ∧
      ∃ t, step (hosted State.reset [stmtWR 0 .cmd (.lit 6)]) = .next t ∧ t.pending = true :=
  ⟨by decide, ⟨_, rfl, by decide⟩⟩

/-- Two states that agree on H and D and differ in the byte after them and in CTRL. -/
theorem witness_ResultsAreAFunctionOfTheOperands :
    let s := flight [0x62] [1] 0x06
    let u := { s with inBuf := s.inBuf.writeRun 2 [0x77], irqEn := true }
    s ≠ u ∧ goodFlight s = true ∧ goodFlight u = true ∧ s.params = u.params ∧ s.hrpLen = u.hrpLen ∧
      s.srcLen = u.srcLen ∧ s.regionH = u.regionH ∧ s.regionD = u.regionD ∧ s.chk = u.chk ∧ s.cksum = u.cksum ∧
      s.dstLen = u.dstLen ∧ s.outBuf = u.outBuf ∧ (∃ t, exec .createChecksum s = .next t) ∧
      ∃ t, exec .createChecksum u = .next t := by
  refine ⟨?_, ?_, ?_, ?_, ?_, ?_, ?_, ?_, ?_, ?_, ?_, ?_, ⟨_, rfl⟩, ⟨_, rfl⟩⟩ <;>
  decide +kernel

/-- Two states that differ in IN_BUF, the lengths and CHK. -/
theorem witness_ZeroizeLeavesNoSecret :
    let s := flight [] [0x5b] 0x30
    let u := { flight [0x62] [] 0x30 with chk := 7 }
    s ≠ u ∧ goodFlight s = true ∧ goodFlight u = true ∧ s.params = u.params := by
  decide

theorem witness_PendingCommandsEnd : State.pending { flight [] [] 0x20 with turns := [.host, .host] } = true := by
  decide

/-- Five bytes at IN_BUF[8], and a load that ends at IN_BUF's last byte. -/
theorem witness_LoadWritesBytesAndZeroLanes :
    ∀ k ∈ [8, 248], ∀ bs ∈ [([1, 2, 3, 4, 5] : List Byte)],
      let s := hosted State.reset (pseudoLOAD 0 k bs)
      s.params.legal = true ∧ s.pending = false ∧ s.turns = [] ∧ s.host.pos = 0 ∧
        s.host.prog = pseudoLOAD s.params.base k bs ∧ k % 4 = 0 ∧
        k + 4 * ((bs.length + 3) / 4) ≤ s.params.ibufSize := by
  decide

end Sys2Proof.Tests
end

section
/-! PROOFS. The scope (00_scope.md): a command's results depend on its operands alone (R6), and a pending command
ends (R18). -/

namespace Sys2Proof.Machine

/-! ### What a command's rule reads -/

/-- The two states agree on all that a command's rule may read (00_scope.md R6): the parameters, the lengths, CHK and
the regions H and D. IN_BUF may differ elsewhere. -/
structure State.SameOperands (s u : State) : Prop where
  params : s.params = u.params
  hrpLen : s.hrpLen = u.hrpLen
  srcLen : s.srcLen = u.srcLen
  regionH : s.regionH = u.regionH
  regionD : s.regionD = u.regionD
  chk : s.chk = u.chk

theorem State.SameOperands.regionsFit_eq {s u : State} (h : s.SameOperands u) : s.regionsFit = u.regionsFit := by
  simp only [State.regionsFit, h.params, h.hrpLen, h.srcLen]

theorem State.SameOperands.withRegions_eq {s u : State} (h : s.SameOperands u) : s.withRegions = u.withRegions := by
  funext body
  simp only [State.withRegions, h.regionsFit_eq, h.regionH, h.regionD]

/-- A rule reads the parameters, CHK and, through `withRegions`, its regions, and nothing else. -/
theorem State.SameOperands.ruleOf_eq {s u : State} (h : s.SameOperands u) (i : Instr) : ruleOf i s = ruleOf i u := by
  have hw := h.withRegions_eq
  cases i with
  | nop | polyInit | zeroize => rfl
  | polyStep imm => simp only [ruleOf, rulePolyStep, h.chk]
  | polyHrp | polyData => simp only [ruleOf, rulePolyHrp, rulePolyData, hw, h.chk]
  | expand | createChecksum | charsetMap =>
    simp only [ruleOf, ruleExpand, ruleCreateChecksum, ruleCharsetMap, hw]
  | repack8to5 | repack5to8 | b32Encode | segwitEncode =>
    simp only [ruleOf, ruleRepack8to5, ruleRepack5to8, ruleB32Encode, ruleSegwitEncode, hw]
  | b58Encode | b58Decode | ecPubkey =>
    simp only [ruleOf, ruleB58Encode, ruleB58Decode, ruleEcPubkey, hw, h.params]

/-! ### What a completion makes of the earlier results -/

/-- The two states hold the same results: OUT_BUF, DST_LEN, CHK and CKSUM. -/
structure State.SameResults (s u : State) : Prop where
  outBuf : s.outBuf = u.outBuf
  dstLen : s.dstLen = u.dstLen
  chk : s.chk = u.chk
  cksum : s.cksum = u.cksum

/-- The two states show the same outcome: DONE, ERR and ERRCODE. -/
structure State.SameOutcome (s u : State) : Prop where
  done : s.status.done = u.status.done
  err : s.status.err = u.status.err
  errcode : s.status.errcode = u.status.errcode

theorem State.SameResults.zeroizeEffects {s u : State} (h : s.SameResults u) (hp : s.params = u.params) :
    s.zeroizeEffects.SameResults u.zeroizeEffects :=
  ⟨by simp only [State.zeroizeEffects, h.outBuf, hp], rfl, rfl, rfl⟩

theorem State.SameResults.writeOut {s u : State} (h : s.SameResults u) (out : List Byte) :
    (s.writeOut out).SameResults (u.writeOut out) :=
  ⟨by simp only [State.writeOut, h.outBuf], rfl, h.chk, h.cksum⟩

theorem State.SameResults.setChecksums {s u : State} (h : s.SameResults u) (c k : Option Acc) :
    State.SameResults { s with chk := c.getD s.chk, cksum := k.getD s.cksum }
      { u with chk := c.getD u.chk, cksum := k.getD u.cksum } :=
  ⟨h.outBuf, h.dstLen, by rw [h.chk], by rw [h.cksum]⟩

/-- A commit takes the results it does not set from the earlier ones, and the size of OUT_BUF where it zeroizes. -/
theorem State.SameResults.commit {s u : State} (h : s.SameResults u) (hp : s.params = u.params) (r : Result) :
    (s.commit r).SameResults (u.commit r) := by
  obtain ⟨out, chk, cksum, z⟩ := r
  have hz : State.SameResults (if z then s.zeroizeEffects else s) (if z then u.zeroizeEffects else u) := by
    cases z with
    | false => exact h
    | true => exact h.zeroizeEffects hp
  cases out with
  | none => exact hz.setChecksums chk cksum
  | some out => exact (hz.writeOut out).setChecksums chk cksum

/-- The same result of a rule completes states of the same results in the same results. -/
theorem State.SameResults.complete {s u : State} (h : s.SameResults u) (hp : s.params = u.params)
    (res : Except CmdError Result) : (s.complete res).SameResults (u.complete res) := by
  cases hf : fitOutput u.params res with
  | error e =>
    rw [complete_of_error (hp ▸ hf), complete_of_error hf]
    exact ⟨h.outBuf, h.dstLen, h.chk, h.cksum⟩
  | ok r =>
    rw [complete_of_ok (hp ▸ hf), complete_of_ok hf]
    obtain ⟨ho, hd, hc, hk⟩ := h.commit hp r
    exact ⟨ho, hd, hc, hk⟩

/-- The same result of a rule completes states of the same outcome in the same outcome. -/
theorem State.SameOutcome.complete {s u : State} (h : s.SameOutcome u) (hp : s.params = u.params)
    (res : Except CmdError Result) : (s.complete res).SameOutcome (u.complete res) := by
  cases hf : fitOutput u.params res with
  | error e =>
    rw [complete_of_error (hp ▸ hf), complete_of_error hf]
    exact ⟨rfl, rfl, rfl⟩
  | ok r =>
    rw [complete_of_ok (hp ▸ hf), complete_of_ok hf]
    exact ⟨rfl, h.err, h.errcode⟩

/-- In a good state with a command in flight DONE, ERR and ERRCODE are 0 (10_state.md R27, 60_exceptions.md R260). -/
theorem State.inFlight.outcome_cleared {s : State} (h : s.inFlight) :
    s.status.done = false ∧ s.status.err = false ∧ s.status.errcode = 0 := by
  obtain ⟨hinv, hpend⟩ := h
  simp only [State.inv, State.statusWf, hpend, Bool.and_eq_true, beq_iff_eq, Bool.not_true, Bool.false_or,
    Bool.not_eq_true', decide_eq_true_eq] at hinv
  obtain ⟨⟨⟨-, ⟨⟨⟨hdone, herr⟩, hcode⟩, -⟩, -⟩, -⟩, -⟩ := hinv
  refine ⟨hdone, herr, ?_⟩
  simpa [herr] using hcode

theorem State.inFlight.sameOutcome {s u : State} (hs : s.inFlight) (hu : u.inFlight) : s.SameOutcome u := by
  obtain ⟨hsd, hse, hsc⟩ := hs.outcome_cleared
  obtain ⟨hud, hue, huc⟩ := hu.outcome_cleared
  exact ⟨hsd.trans hud.symm, hse.trans hue.symm, hsc.trans huc.symm⟩

/-- Settles O57: the rule's result is the same in both states, and its completion turns the same earlier results and
the same outcome into the same ones. -/
theorem resultsAreAFunctionOfTheOperands : Obligations.ResultsAreAFunctionOfTheOperands := by
  unfold Obligations.ResultsAreAFunctionOfTheOperands
  intro i s u t w hs hu hp hhrp hsrc hH hD hchk hcksum hdst hout ht hw
  have hrule : ruleOf i s = ruleOf i u := State.SameOperands.ruleOf_eq ⟨hp, hhrp, hsrc, hH, hD, hchk⟩ i
  rw [exec_eq_complete, hrule] at ht
  rw [exec_eq_complete] at hw
  cases ht
  cases hw
  have hres : s.SameResults u := ⟨hout, hdst, hchk, hcksum⟩
  obtain ⟨ho, hd, hc, hk⟩ := hres.complete hp (ruleOf i u)
  obtain ⟨hdone, herr, hcode⟩ := (hs.sameOutcome hu).complete hp (ruleOf i u)
  exact ⟨ho, hd, hc, hk, herr, hcode, hdone⟩

/-! ### The order of moves -/

@[simp] theorem commit_turns (s : State) (r : Result) : (s.commit r).turns = s.turns := by rw [commit_frame]

@[simp] theorem complete_turns (s : State) (res : Except CmdError Result) : (s.complete res).turns = s.turns := by
  rcases complete_cases s res with ⟨e, -, h⟩ | ⟨r, -, -, h⟩ <;> simp [h]

@[simp] theorem complete_pending (s : State) (res : Except CmdError Result) : (s.complete res).pending = false := by
  rcases complete_cases s res with ⟨e, -, h⟩ | ⟨r, -, -, h⟩ <;> simp [h]

@[simp] theorem writeCtrl_turns (s : State) (v : Word) : (s.writeCtrl v).turns = s.turns := by
  unfold State.writeCtrl State.softReset
  (repeat' split) <;> rfl

@[simp] theorem busWrite_turns (s : State) (o : Nat) (v : Word) : (s.busWrite o v).turns = s.turns := by
  rcases busWrite_cases s o v with
    h | ⟨-, h⟩ | ⟨-, h⟩ | ⟨-, h⟩ | ⟨-, ⟨-, h⟩ | ⟨-, h⟩ | ⟨-, h⟩ | ⟨-, h⟩ | ⟨_, _, h⟩⟩ <;> simp [h]

@[simp] theorem accessInside_turns (s : State) (o : Nat) (d : BusDir) : (s.accessInside o d).turns = s.turns := by
  cases d with
  | read => rw [State.accessInside, busRead_frame]
  | write v => exact busWrite_turns s o v

@[simp] theorem accessElsewhere_turns (s : State) (d : BusDir) : (s.accessElsewhere d).turns = s.turns := by
  cases d <;> rfl

theorem hostStep_turns {s t : State} (h : hostStep s = .next t) : t.turns = s.turns := by
  rcases hostStep_cases h with ⟨a, rfl⟩ | ⟨a, o, v, -, rfl⟩ | ⟨a, o, -, rfl⟩ | ⟨a, d, rfl⟩ <;> simp

theorem engineStep_turns {s t : State} (h : engineStep s = .next t) : t.turns = s.turns := by
  rcases engineStep_cases h with ⟨-, rfl⟩ | ⟨-, e, -, rfl⟩ | ⟨-, i, -, rfl⟩ <;> simp

/-- Every step takes its move off the order, and does nothing else to it. -/
theorem step_turns {s t : State} (h : step s = .next t) : t.turns = s.turns.tail := by
  rcases step_cases h with ⟨-, h⟩ | ⟨-, h⟩ | ⟨-, rfl⟩
  · exact hostStep_turns h
  · exact engineStep_turns h
  · rfl

/-! ### Every step answers a state or a fault -/

theorem mapNext_ne_refused {o : Host.Outcome State Fault Refusal} (f : State → State)
    (h : ∀ r, o ≠ .refused r) (r : Refusal) : mapNext o f ≠ .refused r := by
  cases o with
  | next _ | fault _ => simp [mapNext]
  | refused q => exact absurd rfl (h q)

theorem busTransact_ne_refused (s : State) (addr width : Nat) (d : BusDir) (r : Refusal) :
    busTransact s addr width d ≠ .refused r := by
  unfold busTransact
  (repeat' split) <;> simp

theorem hostStatement_ne_refused (s : State) (st : Stmt) (r : Refusal) : hostStatement s st ≠ .refused r := by
  cases st with
  | wr addr width e =>
    rw [hostStatement]
    split
    · simp
    · exact mapNext_ne_refused _ (busTransact_ne_refused s addr width _) r
  | rd addr width n => exact mapNext_ne_refused _ (busTransact_ne_refused s addr width _) r
  | label l => simp [hostStatement]
  | ifGoto c l =>
    rw [hostStatement]
    (repeat' split) <;> simp
  | expect c =>
    rw [hostStatement]
    split <;> simp

theorem hostStep_ne_refused (s : State) (r : Refusal) : hostStep s ≠ .refused r := by
  unfold hostStep
  split
  · simp
  · exact hostStatement_ne_refused s _ r

/-- No step is refused: every command of the block has its meaning. -/
theorem step_ne_refused (s : State) (r : Refusal) : step s ≠ .refused r := by
  unfold step machineStep
  split
  · exact hostStep_ne_refused _ r
  · obtain ⟨t, ht⟩ := engineStep_next s.takeTurn
    simp [ht]
  · simp

/-! ### The end of a pending command -/

/-- After the engine's move nothing is pending (30_encoding.md R99). -/
theorem engineStep_pending {s t : State} (h : engineStep s = .next t) : t.pending = false := by
  rcases engineStep_cases h with ⟨hidle, rfl⟩ | ⟨-, e, -, rfl⟩ | ⟨-, i, -, rfl⟩
  · exact hidle
  · rfl
  · exact complete_pending s _

theorem mover_of_pending {s : State} (hp : s.pending = true) (hn : s.turns = []) : s.mover = .engine := by
  simp [State.mover, hn, hp]

/-- With no move ordered, the step of a pending command is its completion. -/
theorem step_completes {s : State} (hp : s.pending = true) (hn : s.turns = []) :
    ∃ t, step s = .next t ∧ t.pending = false := by
  obtain ⟨t, ht⟩ := engineStep_next s.takeTurn
  refine ⟨t, ?_, engineStep_pending ht⟩
  unfold step machineStep
  rw [mover_of_pending hp hn]
  exact ht

theorem run_succ_of_next {s t : State} (h : step s = .next t) (k : Nat) :
    Host.Core.run Sys2Proof.core (k + 1) s = Host.Core.run Sys2Proof.core k t := by
  simp only [Host.Core.run, Sys2Proof.core, h]

theorem run_succ_of_fault {s : State} {f : Fault} (h : step s = .fault f) (k : Nat) :
    Host.Core.run Sys2Proof.core (k + 1) s = .fault f := by
  simp only [Host.Core.run, Sys2Proof.core, h]

/-- Within `n` steps from `s` a state is reached in which nothing is pending, or a step faults. -/
def State.EndsWithin (s : State) (n : Nat) : Prop :=
  ∃ k, k ≤ n ∧
    ((∃ t, Host.Core.run Sys2Proof.core k s = .next t ∧ t.pending = false) ∨
     (∃ f, Host.Core.run Sys2Proof.core k s = .fault f))

theorem State.endsWithin_of_idle {s : State} (h : s.pending = false) (n : Nat) : s.EndsWithin n :=
  ⟨0, Nat.zero_le n, .inl ⟨s, rfl, h⟩⟩

theorem State.endsWithin_of_fault {s : State} {f : Fault} (h : step s = .fault f) (n : Nat) : s.EndsWithin (n + 1) :=
  ⟨1, Nat.le_add_left 1 n, .inr ⟨f, run_succ_of_fault h 0⟩⟩

theorem State.EndsWithin.of_next {s t : State} {n : Nat} (ht : t.EndsWithin n) (h : step s = .next t) :
    s.EndsWithin (n + 1) := by
  obtain ⟨k, hk, hend⟩ := ht
  exact ⟨k + 1, Nat.succ_le_succ hk, by rwa [run_succ_of_next h]⟩

/-- By induction on the moves still ordered: each step takes one off the order, and when none is left the engine
completes the command. -/
theorem State.endsWithin_of_pending {s : State} (hp : s.pending = true) : s.EndsWithin (s.turns.length + 1) := by
  induction hn : s.turns generalizing s with
  | nil =>
    obtain ⟨t, ht, hidle⟩ := step_completes hp hn
    exact (State.endsWithin_of_idle hidle _).of_next ht
  | cons m ms ih =>
    cases h : step s with
    | fault f => exact State.endsWithin_of_fault h _
    | refused r => exact absurd h (step_ne_refused s r)
    | next t =>
      have hturns : t.turns = ms := by rw [step_turns h, hn, List.tail_cons]
      cases htp : t.pending with
      | false => exact (State.endsWithin_of_idle htp _).of_next h
      | true => exact (ih htp hturns).of_next h

/-- Settles O59: a pending command ends within the moves still ordered and one more. -/
theorem pendingCommandsEnd : Obligations.PendingCommandsEnd := by
  unfold Obligations.PendingCommandsEnd
  intro s hp
  exact State.endsWithin_of_pending hp

end Sys2Proof.Machine
end

section
/-! PROOFS. The state (10_state.md): what every step keeps (the invariant, the identity registers), the only moves that
clear OVR or start a command, what ignores writes, the IRQ line and the reset state. -/

namespace Sys2Proof.Machine

/-! ### The host's move: a write in the window, or nothing of the block -/

/-- `t` is `s` but for the response at the port, the free values drawn since, and the host agent. -/
structure State.KeepsBlock (s t : State) : Prop where
  frame : t = { s with resp := t.resp, draws := t.draws, host := t.host }
  draws_le : s.draws ≤ t.draws

theorem State.keepsBlock_host (s : State) (a : HostAgent) : s.KeepsBlock { s with host := a } :=
  ⟨rfl, Nat.le_refl _⟩

theorem State.KeepsBlock.trans {s t u : State} (h : s.KeepsBlock t) (h' : t.KeepsBlock u) : s.KeepsBlock u := by
  refine ⟨?_, h.draws_le.trans h'.draws_le⟩
  rw [h'.frame, h.frame]

theorem State.keepsBlock_accessElsewhere (s : State) (d : BusDir) : s.KeepsBlock (s.accessElsewhere d) := by
  cases d with
  | read => exact ⟨rfl, Nat.le_succ _⟩
  | write v => exact ⟨rfl, Nat.le_refl _⟩

theorem State.keepsBlock_accessInside_read (s : State) (o : Nat) : s.KeepsBlock (s.accessInside o .read) := by
  refine ⟨?_, busRead_draws_le s o⟩
  rw [State.accessInside, busRead_frame]

theorem State.keepsBlock_bindResponse (s : State) (n : Nat) : s.KeepsBlock (s.bindResponse n) := by
  unfold State.bindResponse
  split <;> exact ⟨rfl, Nat.le_refl _⟩

theorem mapNext_eq_next {x : Host.Outcome State Fault Refusal} {f : State → State} {t : State}
    (h : mapNext x f = .next t) : ∃ u, x = .next u ∧ t = f u := by
  cases x with
  | next u => exact ⟨u, rfl, (Host.Outcome.next.inj h).symm⟩
  | fault r | refused r => nomatch h

/-- A transaction that gets no ERROR response lies outside the window, or is an aligned word in it (20_memory.md R62,
R68). -/
theorem busTransact_cases {s t : State} {addr width : Nat} {d : BusDir} (h : busTransact s addr width d = .next t) :
    t = s.accessElsewhere d ∨
    (∃ o, addr = s.params.base + o ∧ width = 4 ∧ o % 4 = 0 ∧ t = s.accessInside o d) := by
  unfold busTransact at h
  split at h
  · exact .inl (Host.Outcome.next.inj h).symm
  · rename_i hin
    have hbase : s.params.base ≤ addr := ((inWindow_iff s addr).mp (by simpa using hin)).1
    split at h
    · nomatch h
    · rename_i hwidth
      split at h
      · nomatch h
      · rename_i halign
        exact .inr ⟨addr - s.params.base, by omega, not_not.mp hwidth, not_not.mp halign,
          (Host.Outcome.next.inj h).symm⟩

/-- A host statement that changes more of the block than the port and the draws is a write in the window. -/
theorem hostStatement_keepsBlock_or_writes {s t : State} {st : Stmt} (h : hostStatement s st = .next t) :
    s.KeepsBlock t ∨
    ∃ o e v a, st = .wr (s.params.base + o) 4 e ∧ e.eval s.host.names = some v ∧ o % 4 = 0 ∧
      t = { s.accessInside o (.write v) with host := a } := by
  cases st with
  | wr addr width e =>
    rw [hostStatement] at h
    cases hv : e.eval s.host.names with
    | none => rw [hv] at h; nomatch h
    | some v =>
      rw [hv] at h
      obtain ⟨u, hu, rfl⟩ := mapNext_eq_next h
      rcases busTransact_cases hu with rfl | ⟨o, rfl, rfl, ho, rfl⟩
      · exact .inl ((s.keepsBlock_accessElsewhere _).trans (State.keepsBlock_host _ _))
      · exact .inr ⟨o, e, v, _, rfl, hv, ho, rfl⟩
  | rd addr width n =>
    obtain ⟨u, hu, rfl⟩ := mapNext_eq_next h
    have hbind : u.KeepsBlock (u.bindResponse n).advanceHost :=
      (u.keepsBlock_bindResponse n).trans (State.keepsBlock_host _ _)
    rcases busTransact_cases hu with rfl | ⟨o, -, -, -, rfl⟩
    · exact .inl ((s.keepsBlock_accessElsewhere _).trans hbind)
    · exact .inl ((s.keepsBlock_accessInside_read o).trans hbind)
  | label l =>
    cases h
    exact .inl (s.keepsBlock_host _)
  | ifGoto c l =>
    rw [hostStatement] at h
    (repeat' split at h) <;> cases h <;> exact .inl (s.keepsBlock_host _)
  | expect c =>
    rw [hostStatement] at h
    split at h <;> cases h
    exact .inl (s.keepsBlock_host _)

theorem hostStep_keepsBlock_or_writes {s t : State} (h : hostStep s = .next t) :
    s.KeepsBlock t ∨
    ∃ o e v a, s.host.prog[s.host.pos]? = some (.wr (s.params.base + o) 4 e) ∧ e.eval s.host.names = some v ∧
      o % 4 = 0 ∧ t = { s.accessInside o (.write v) with host := a } := by
  unfold hostStep at h
  split at h
  · cases h
    exact .inl (s.keepsBlock_host s.host)
  · rename_i st hst
    rcases hostStatement_keepsBlock_or_writes h with hk | ⟨o, e, v, a, rfl, hv, ho, ht⟩
    · exact .inl hk
    · exact .inr ⟨o, e, v, a, hst, hv, ho, ht⟩

/-! ### The invariant -/

theorem State.inv_iff (s : State) :
    s.inv = true ↔ s.params.legal = true ∧ s.statusWf = true ∧ s.buffersWf = true ∧ s.drawsWf = true := by
  simp only [State.inv, Bool.and_eq_true, and_assoc]

theorem State.statusWf_iff (s : State) :
    s.statusWf = true ↔
      (s.pending = true → s.status.done = false ∧ s.status.err = false) ∧
      (s.status.err = true ↔ s.status.errcode ≠ 0) ∧ s.status.errcode.toNat ≤ 6 ∧
      s.status.lastop = s.cmd.extractLsb' 0 8 := by
  unfold State.statusWf
  cases s.pending <;> cases s.status.err <;> simp [and_assoc]

theorem State.buffersWf_iff (s : State) :
    s.buffersWf = true ↔ s.inBuf.wf s.params.ibufSize = true ∧ s.outBuf.wf s.params.obufSize = true ∧
      s.dstLen.toNat ≤ s.params.obufSize := by
  simp only [State.buffersWf, Bool.and_eq_true, and_assoc, decide_eq_true_eq]

theorem State.drawsWf_iff (s : State) :
    s.drawsWf = true ↔ s.inBuf.fill < s.draws ∧ s.outBuf.fill < s.draws ∧ s.inBuf.fill ≠ s.outBuf.fill := by
  simp only [State.drawsWf, Bool.and_eq_true, and_assoc, decide_eq_true_eq]

/-! ### STATUS under each operation -/

/-- Codes 1 to 6 (60_exceptions.md R260). -/
theorem CmdError.code_ne_zero_and_le (e : CmdError) : e.code ≠ 0 ∧ e.code.toNat ≤ 6 := by
  cases e <;> decide

theorem State.statusWf_completeError {s : State} (h : s.statusWf = true) (e : CmdError) :
    (s.completeError e).statusWf = true := by
  obtain ⟨-, -, -, hop⟩ := s.statusWf_iff.mp h
  obtain ⟨hne, hle⟩ := e.code_ne_zero_and_le
  exact (State.statusWf_iff _).mpr ⟨nofun, by simpa [Status.recordError, Status.completed] using hne, hle, hop⟩

/-- A success leaves ERR and ERRCODE as acceptance left them. -/
theorem State.statusWf_completed {s : State} (h : s.statusWf = true) :
    State.statusWf { s with status := s.status.completed, pending := false } = true := by
  obtain ⟨-, herr, hcode, hop⟩ := s.statusWf_iff.mp h
  exact (State.statusWf_iff _).mpr ⟨nofun, herr, hcode, hop⟩

theorem State.statusWf_accept (s : State) (w : Word) : (s.accept w).statusWf = true :=
  (State.statusWf_iff _).mpr ⟨fun _ => ⟨rfl, rfl⟩, by simp [Status.accepted], by simp [Status.accepted], rfl⟩

/-- A write of STATUS clears ERR and ERRCODE together (20_memory.md R65). -/
theorem State.statusWf_writeStatus {s : State} (h : s.statusWf = true) (v : Word) :
    (s.writeStatus v).statusWf = true := by
  obtain ⟨hbusy, herr, hcode, hop⟩ := s.statusWf_iff.mp h
  refine (State.statusWf_iff _).mpr ⟨fun hp => ?_, ?_, ?_, hop⟩
  · obtain ⟨hdone, herr0⟩ := hbusy hp
    simp [Status.w1c, hdone, herr0]
  · simp only [State.writeStatus_status, Status.w1c]
    cases v.getLsbD 2 <;> simp [herr]
  · simp only [State.writeStatus_status, Status.w1c]
    cases v.getLsbD 2 <;> simp [hcode]

theorem State.statusWf_resetRegisters (s : State) : s.resetRegisters.statusWf = true :=
  (State.statusWf_iff _).mpr ⟨nofun, by simp [Status.cleared], by simp [Status.cleared], rfl⟩

/-! ### The buffers under each operation -/

theorem State.buffersWf_zeroizeEffects (s : State) : s.zeroizeEffects.buffersWf = true :=
  (State.buffersWf_iff _).mpr ⟨Memory.wf_zeros _ _, Memory.wf_zeros _ _, Nat.zero_le _⟩

theorem State.buffersWf_writeOut {s : State} (h : s.buffersWf = true) {out : List Byte}
    (hlen : out.length ≤ s.params.obufSize) : (s.writeOut out).buffersWf = true := by
  obtain ⟨hin, hout, -⟩ := s.buffersWf_iff.mp h
  refine (State.buffersWf_iff _).mpr ⟨hin, Memory.wf_writeRun hout (by simpa using hlen), ?_⟩
  rw [State.writeOut_dstLen, BitVec.toNat_ofNat]
  exact (Nat.mod_le _ _).trans hlen

/-- A result that fits OUT_BUF keeps both buffers canonical and DST_LEN within OUT_BUF (30_encoding.md R98). -/
theorem State.buffersWf_commit {s : State} (h : s.buffersWf = true) {r : Result}
    (hlen : (r.out.getD []).length ≤ s.params.obufSize) : (s.commit r).buffersWf = true := by
  obtain ⟨out, chk, cksum, z⟩ := r
  have hz : (if z then s.zeroizeEffects else s).buffersWf = true := by
    cases z with
    | false => exact h
    | true => exact s.buffersWf_zeroizeEffects
  cases out with
  | none => exact hz
  | some out =>
    refine State.buffersWf_writeOut hz ?_
    cases z <;> exact hlen

theorem State.inBufIndex_eq_some {s : State} {o j : Nat} (h : s.inBufIndex o = some j) :
    o = 0x1000 + j ∧ j < s.params.ibufSize := by
  unfold State.inBufIndex at h
  split at h
  · rename_i ho
    have hj := Option.some.inj h
    simp only [inBufOffset] at ho hj
    omega
  · nomatch h

/-- A word written at an aligned offset of the IN_BUF window lies in IN_BUF, whose size is a multiple of 4
(00_scope.md R8). -/
theorem State.inBufIndex_word_fits {s : State} {o j : Nat} (hs : s.params.legal = true) (ho : o % 4 = 0)
    (hj : s.inBufIndex o = some j) : j + 4 ≤ s.params.ibufSize := by
  simp only [Params.legal, legalBufSize, Bool.and_eq_true, beq_iff_eq] at hs
  have ⟨hoff, hlt⟩ := State.inBufIndex_eq_some hj
  omega

/-! ### Every operation keeps the invariant -/

theorem State.KeepsBlock.inv {s t : State} (h : s.KeepsBlock t) (hs : s.inv = true) : t.inv = true := by
  obtain ⟨hlegal, hst, hbuf, hdraw⟩ := s.inv_iff.mp hs
  obtain ⟨hin, hout, hne⟩ := s.drawsWf_iff.mp hdraw
  rw [h.frame]
  exact (State.inv_iff _).mpr ⟨hlegal, hst, hbuf,
    (State.drawsWf_iff _).mpr ⟨hin.trans_le h.draws_le, hout.trans_le h.draws_le, hne⟩⟩

theorem State.inv_completeError {s : State} (hs : s.inv = true) (e : CmdError) : (s.completeError e).inv = true := by
  obtain ⟨hlegal, hst, hbuf, hdraw⟩ := s.inv_iff.mp hs
  exact (State.inv_iff _).mpr ⟨hlegal, State.statusWf_completeError hst e, hbuf, hdraw⟩

theorem State.inv_complete {s : State} (hs : s.inv = true) (res : Except CmdError Result) :
    (s.complete res).inv = true := by
  rcases complete_cases s res with ⟨e, -, h⟩ | ⟨r, -, hlen, h⟩
  · rw [h]
    exact State.inv_completeError hs e
  · obtain ⟨hlegal, hst, hbuf, hdraw⟩ := s.inv_iff.mp hs
    rw [h, State.inv_iff]
    refine ⟨by simpa using hlegal, ?_, State.buffersWf_commit hbuf hlen, ?_⟩
    · simpa [State.statusWf] using State.statusWf_completed hst
    · simpa [State.drawsWf] using hdraw

theorem State.inv_accept {s : State} (hs : s.inv = true) (w : Word) : (s.accept w).inv = true := by
  obtain ⟨hlegal, -, hbuf, hdraw⟩ := s.inv_iff.mp hs
  exact (State.inv_iff _).mpr ⟨hlegal, s.statusWf_accept w, hbuf, hdraw⟩

theorem State.inv_writeStatus {s : State} (hs : s.inv = true) (v : Word) : (s.writeStatus v).inv = true := by
  obtain ⟨hlegal, hst, hbuf, hdraw⟩ := s.inv_iff.mp hs
  exact (State.inv_iff _).mpr ⟨hlegal, State.statusWf_writeStatus hst v, hbuf, hdraw⟩

theorem State.inv_writeInBuf {s : State} (hs : s.inv = true) {j : Nat} (hj : j + 4 ≤ s.params.ibufSize) (v : Word) :
    State.inv { s with inBuf := s.inBuf.writeRun j (leBytes v) } = true := by
  obtain ⟨hlegal, hst, hbuf, hdraw⟩ := s.inv_iff.mp hs
  obtain ⟨hin, hout, hdst⟩ := s.buffersWf_iff.mp hbuf
  exact (State.inv_iff _).mpr ⟨hlegal, hst,
    (State.buffersWf_iff _).mpr ⟨Memory.wf_writeRun hin hj, hout, hdst⟩, hdraw⟩

theorem State.inv_resetRegisters {s : State} (hs : s.inv = true) : s.resetRegisters.inv = true := by
  obtain ⟨hlegal, -, hbuf, hdraw⟩ := s.inv_iff.mp hs
  obtain ⟨hin, hout, -⟩ := s.buffersWf_iff.mp hbuf
  exact (State.inv_iff _).mpr ⟨hlegal, s.statusWf_resetRegisters,
    (State.buffersWf_iff _).mpr ⟨hin, hout, Nat.zero_le _⟩, hdraw⟩

/-- An abandoned command's buffers take the draws now due, so they differ from each other and from an IN_BUF that
stays. -/
theorem State.inv_abandon {s : State} (hs : s.inv = true) : s.abandon.inv = true := by
  obtain ⟨hlegal, hst, hbuf, hdraw⟩ := s.inv_iff.mp hs
  obtain ⟨hin, -, hdst⟩ := s.buffersWf_iff.mp hbuf
  obtain ⟨hdin, -, -⟩ := s.drawsWf_iff.mp hdraw
  refine (State.inv_iff _).mpr ⟨hlegal, hst, (State.buffersWf_iff _).mpr ⟨?_, Memory.wf_unspecified _ _, hdst⟩,
    (State.drawsWf_iff _).mpr ?_⟩
  · rw [State.abandon_inBuf]
    split
    · exact Memory.wf_unspecified _ _
    · exact hin
  · simp only [State.abandon_inBuf, State.abandon_outBuf, State.abandon_draws, Memory.fill_unspecified]
    split
    · simp only [Memory.fill_unspecified]
      omega
    · omega

theorem State.inv_softReset {s : State} (hs : s.inv = true) : s.softReset.inv = true := by
  unfold State.softReset
  split
  · exact State.inv_resetRegisters (State.inv_abandon hs)
  · exact State.inv_resetRegisters hs

theorem State.inv_powerOn {s : State} (hs : s.inv = true) : s.powerOn.inv = true := by
  obtain ⟨hlegal, -, -, -⟩ := s.inv_iff.mp hs
  refine (State.inv_iff _).mpr ⟨hlegal, s.statusWf_resetRegisters, (State.buffersWf_iff _).mpr
    ⟨Memory.wf_unspecified _ _, Memory.wf_unspecified _ _, Nat.zero_le _⟩, (State.drawsWf_iff _).mpr ?_⟩
  simp only [State.powerOn_inBuf, State.powerOn_outBuf, State.powerOn_draws, Memory.fill_unspecified]
  omega

theorem State.inv_writeCtrl {s : State} (hs : s.inv = true) (v : Word) : (s.writeCtrl v).inv = true := by
  unfold State.writeCtrl
  split
  · exact State.inv_softReset hs
  · exact hs

theorem State.inv_busWrite {s : State} (hs : s.inv = true) {o : Nat} (ho : o % 4 = 0) (v : Word) :
    (s.busWrite o v).inv = true := by
  rcases busWrite_cases s o v with
    h | ⟨-, h⟩ | ⟨-, h⟩ | ⟨-, h⟩ | ⟨-, ⟨-, h⟩ | ⟨-, h⟩ | ⟨-, h⟩ | ⟨-, h⟩ | ⟨j, hj, h⟩⟩ <;> rw [h]
  · exact hs
  · exact State.inv_writeCtrl hs v
  · exact State.inv_writeStatus hs v
  · exact hs
  · exact State.inv_accept hs v
  · exact hs
  · exact hs
  · exact hs
  · exact State.inv_writeInBuf hs (State.inBufIndex_word_fits (s.inv_iff.mp hs).1 ho hj) v

theorem hostStep_keeps_inv {s t : State} (hs : s.inv = true) (h : hostStep s = .next t) : t.inv = true := by
  rcases hostStep_keepsBlock_or_writes h with hk | ⟨o, -, v, a, -, -, ho, rfl⟩
  · exact hk.inv hs
  · exact State.inv_busWrite hs ho v

theorem engineStep_keeps_inv {s t : State} (hs : s.inv = true) (h : engineStep s = .next t) : t.inv = true := by
  rcases engineStep_cases h with ⟨-, rfl⟩ | ⟨-, e, -, rfl⟩ | ⟨-, i, -, rfl⟩
  · exact hs
  · exact State.inv_completeError hs _
  · exact State.inv_complete hs _

/-- Settles O51: the host's statements, the engine's completion and the power-on reset each keep the invariant. -/
theorem everyStepKeepsTheInvariant : Obligations.EveryStepKeepsTheInvariant := by
  unfold Obligations.EveryStepKeepsTheInvariant
  intro s t hs h
  have hturn : s.takeTurn.inv = true := hs
  rcases step_cases h with ⟨-, h⟩ | ⟨-, h⟩ | ⟨-, rfl⟩
  · exact hostStep_keeps_inv hturn h
  · exact engineStep_keeps_inv hturn h
  · exact State.inv_powerOn hturn

/-- Settles O52: BASE and the sizes of this hardware are legal, STATUS is clear, and the two buffers are unspecified
under the draws 0 and 1. -/
theorem resetMeetsTheInvariant : Obligations.ResetMeetsTheInvariant := by
  unfold Obligations.ResetMeetsTheInvariant
  rw [State.inv_iff]
  exact ⟨rfl, rfl, rfl, rfl⟩

/-! ### OVR -/

@[simp] theorem complete_ovr (s : State) (res : Except CmdError Result) :
    (s.complete res).status.ovr = s.status.ovr := by
  rcases complete_cases s res with ⟨e, -, h⟩ | ⟨r, -, -, h⟩ <;> rw [h] <;> rfl

theorem engineStep_ovr {s t : State} (h : engineStep s = .next t) : t.status.ovr = s.status.ovr := by
  rcases engineStep_cases h with ⟨-, rfl⟩ | ⟨-, e, -, rfl⟩ | ⟨-, i, -, rfl⟩
  · rfl
  · rfl
  · exact complete_ovr s _

/-- A write of CTRL without SRST leaves STATUS alone (20_memory.md R65). -/
theorem writeCtrl_status_of_no_srst {s : State} {v : Word} (hv : v.getLsbD 1 = false) :
    (s.writeCtrl v).status = s.status := by
  simp only [State.writeCtrl, hv, Bool.false_eq_true, if_false]

theorem writeStatus_ovr_of_no_bit {s : State} {v : Word} (hv : v.getLsbD 3 = false) :
    (s.writeStatus v).status.ovr = s.status.ovr := by
  simp only [State.writeStatus_status, Status.w1c, hv, Bool.not_false, Bool.and_true]

/-- The writes that clear OVR: STATUS with bit 3 set, CTRL with SRST set. -/
theorem busWrite_clears_ovr {s : State} {o : Nat} {v : Word} (hs : s.status.ovr = true)
    (ht : (s.busWrite o v).status.ovr = false) :
    (o = 0x010 ∧ v.getLsbD 3 = true) ∨ (o = 0x00C ∧ v.getLsbD 1 = true) := by
  rcases busWrite_cases s o v with
    h | ⟨ho, h⟩ | ⟨ho, h⟩ | ⟨-, h⟩ | ⟨-, ⟨-, h⟩ | ⟨-, h⟩ | ⟨-, h⟩ | ⟨-, h⟩ | ⟨_, _, h⟩⟩ <;> rw [h] at ht
  case inr.inl =>
    cases hv : v.getLsbD 1 with
    | true => exact .inr ⟨ho, rfl⟩
    | false =>
      rw [writeCtrl_status_of_no_srst hv, hs] at ht
      nomatch ht
  case inr.inr.inl =>
    cases hv : v.getLsbD 3 with
    | true => exact .inl ⟨ho, rfl⟩
    | false =>
      rw [writeStatus_ovr_of_no_bit hv, hs] at ht
      nomatch ht
  case inr.inr.inr.inl => nomatch ht
  all_goals exact absurd ht (by simp [hs, Status.accepted])

/-- Settles O55: a completion keeps OVR, and a host's statement that changes STATUS is a write in the window. -/
theorem ovrIsClearedOnlyByTheHostOrAReset : Obligations.OvrIsClearedOnlyByTheHostOrAReset := by
  unfold Obligations.OvrIsClearedOnlyByTheHostOrAReset
  intro s t h hs ht
  have hturn : s.takeTurn.status.ovr = true := hs
  rcases step_cases h with ⟨hm, h⟩ | ⟨-, h⟩ | ⟨hm, -⟩
  · rcases hostStep_keepsBlock_or_writes h with hk | ⟨o, e, v, a, hst, hv, -, rfl⟩
    · rw [hk.frame, hturn] at ht
      nomatch ht
    · exact .inr ⟨hm, o, e, v, hst, hv, busWrite_clears_ovr hturn ht⟩
  · rw [engineStep_ovr h, hturn] at ht
    nomatch ht
  · exact .inl hm

/-! ### The start of a command -/

@[simp] theorem writeCtrl_pending_of_idle {s : State} (hs : s.pending = false) (v : Word) :
    (s.writeCtrl v).pending = false := by
  unfold State.writeCtrl
  split
  · simp [State.softReset, hs]
  · exact hs

/-- The only write that makes an idle block busy is an accepted one of CMD (30_encoding.md R97). -/
theorem busWrite_starts {s : State} {o : Nat} {v : Word} (hs : s.pending = false)
    (ht : (s.busWrite o v).pending = true) : o = 0x014 ∧ s.busWrite o v = s.accept v := by
  rcases busWrite_cases s o v with
    h | ⟨-, h⟩ | ⟨-, h⟩ | ⟨hp, -⟩ | ⟨-, h | ⟨-, h⟩ | ⟨-, h⟩ | ⟨-, h⟩ | ⟨_, _, h⟩⟩
  case inr.inr.inr.inr.inl => exact h
  case inr.inr.inr.inl => exact absurd hp (by simp [hs])
  all_goals exact absurd ht (by simp [h, hs])

/-- Settles O56: after the engine's move and after a power-on reset nothing is pending, so the move is the host's, and
it is the write that the block accepts. -/
theorem commandsStartOnlyByACmdWrite : Obligations.CommandsStartOnlyByACmdWrite := by
  unfold Obligations.CommandsStartOnlyByACmdWrite
  intro s t h hs ht
  have hturn : s.takeTurn.pending = false := hs
  rcases step_cases h with ⟨hm, h⟩ | ⟨-, h⟩ | ⟨-, rfl⟩
  · rcases hostStep_keepsBlock_or_writes h with hk | ⟨o, e, v, a, hst, hv, -, rfl⟩
    · rw [hk.frame, hturn] at ht
      nomatch ht
    · obtain ⟨rfl, hacc⟩ := busWrite_starts hturn ht
      refine ⟨hm, e, v, hst, hv, ?_, ?_⟩ <;> simp [State.accessInside, hacc, Status.accepted]
  · rw [engineStep_pending h] at ht
    nomatch ht
  · nomatch ht

/-! ### The parameters -/

@[simp] theorem complete_params (s : State) (res : Except CmdError Result) : (s.complete res).params = s.params := by
  rcases complete_cases s res with ⟨e, -, h⟩ | ⟨r, -, -, h⟩ <;> simp [h]

@[simp] theorem writeCtrl_params (s : State) (v : Word) : (s.writeCtrl v).params = s.params := by
  unfold State.writeCtrl State.softReset
  (repeat' split) <;> rfl

@[simp] theorem busWrite_params (s : State) (o : Nat) (v : Word) : (s.busWrite o v).params = s.params := by
  rcases busWrite_cases s o v with
    h | ⟨-, h⟩ | ⟨-, h⟩ | ⟨-, h⟩ | ⟨-, ⟨-, h⟩ | ⟨-, h⟩ | ⟨-, h⟩ | ⟨-, h⟩ | ⟨_, _, h⟩⟩ <;> simp [h]

theorem hostStep_params {s t : State} (h : hostStep s = .next t) : t.params = s.params := by
  rcases hostStep_keepsBlock_or_writes h with hk | ⟨o, -, v, a, -, -, -, rfl⟩
  · rw [hk.frame]
  · exact busWrite_params s o v

theorem engineStep_params {s t : State} (h : engineStep s = .next t) : t.params = s.params := by
  rcases engineStep_cases h with ⟨-, rfl⟩ | ⟨-, e, -, rfl⟩ | ⟨-, i, -, rfl⟩ <;> simp

theorem step_params {s t : State} (h : step s = .next t) : t.params = s.params := by
  rcases step_cases h with ⟨-, h⟩ | ⟨-, h⟩ | ⟨-, rfl⟩
  · exact (hostStep_params h).trans s.takeTurn_params
  · exact (engineStep_params h).trans s.takeTurn_params
  · rfl

/-- CAPS and BUFSZ show the parameters and nothing else (10_state.md R24, R25). -/
theorem capsWord_of_params_eq {s t : State} (h : t.params = s.params) : t.capsWord = s.capsWord := by
  simp only [State.capsWord, h]

theorem bufszWord_of_params_eq {s t : State} (h : t.params = s.params) : t.bufszWord = s.bufszWord := by
  simp only [State.bufszWord, h]

/-- Settles O54: no step writes the parameters, and the three registers are functions of them. -/
theorem identityNeverChanges : Obligations.IdentityNeverChanges := by
  unfold Obligations.IdentityNeverChanges
  intro s t h
  have hp := step_params h
  exact ⟨hp, rfl, capsWord_of_params_eq hp, bufszWord_of_params_eq hp⟩

/-! ### The operands -/

/-- Settles O53: an error completion writes STATUS alone, and only ZEROIZE's rule asks for the commit that writes the
operands. -/
theorem onlyZeroizeWritesTheOperands : Obligations.OnlyZeroizeWritesTheOperands := by
  unfold Obligations.OnlyZeroizeWritesTheOperands
  intro i s t hi h
  rw [exec_eq_complete] at h
  cases h
  rcases complete_cases s (ruleOf i s) with ⟨e, -, h⟩ | ⟨r, hr, -, h⟩ <;> rw [h]
  · exact ⟨rfl, rfl, rfl⟩
  · exact commit_keeps_operands s (ruleOf_zeroize hr hi)

/-! ### What ignores writes and reads as zero -/

theorem inBufIndex_eq_none {s : State} {o : Nat} (h : o < 0x1000 ∨ 0x2000 ≤ o ∨ 0x1000 + s.params.ibufSize ≤ o) :
    s.inBufIndex o = none := by
  simp only [State.inBufIndex, inBufOffset, outBufOffset]
  exact if_neg (by omega)

theorem outBufIndex_eq_none {s : State} {o : Nat} (h : o < 0x2000 ∨ 0x2000 + s.params.obufSize ≤ o) :
    s.outBufIndex o = none := by
  simp only [State.outBufIndex, outBufOffset, windowSize]
  exact if_neg (by omega)

/-- A write at an offset that is neither a writable register nor a byte of IN_BUF has no effect (10_state.md R41). -/
theorem busWrite_eq_self {s : State} {o : Nat} (hreg : o ∉ [0x00C, 0x010, 0x014, 0x018, 0x01C, 0x024])
    (hin : s.inBufIndex o = none) (v : Word) : s.busWrite o v = s := by
  unfold State.busWrite
  split
  case h_7 => simp only [State.writeWindow, hin]
  all_goals exact absurd hreg (by decide)

/-- A read beyond the registers at an offset that names no byte of a buffer gives 0 and does nothing (10_state.md
R41). -/
theorem busRead_eq_zero {s : State} {o : Nat} (ho : 0x02C ≤ o) (hin : s.inBufIndex o = none)
    (hout : s.outBufIndex o = none) : s.busRead o = (0, s) := by
  have hread : s.readWord o = 0 := by
    unfold State.readWord
    split
    case h_12 => simp only [State.windowWord, hin, hout]
    all_goals exact absurd ho (by decide)
  have hres : s.isResultOffset o = false := by
    simp only [State.isResultOffset, hout, Option.isSome_none, Bool.or_false, Bool.or_eq_false_iff, beq_eq_false_iff_ne]
    omega
  simp [State.busRead, hres, hread]

/-- A field read with zeros above it has zeros there. -/
theorem extractLsb'_setWidth_above {n : Nat} (x : BitVec n) (m k : Nat) :
    (x.setWidth m).extractLsb' n k = 0 := by
  ext i
  simp

/-- The bits of STATUS between the three flag bits and ERRCODE, between ERRCODE and LASTOP, and above LASTOP are
reserved (10_state.md R27). -/
theorem Status.toWord_reserved (st : Status) (busy : Bool) :
    (st.toWord busy).extractLsb' 4 4 = 0 ∧ (st.toWord busy).extractLsb' 12 4 = 0 ∧
      (st.toWord busy).extractLsb' 24 8 = 0 := by
  unfold Status.toWord
  refine ⟨?_, ?_, ?_⟩
  · repeat rw [BitVec.extractLsb'_append_eq_of_le (by decide)]
    rw [BitVec.extractLsb'_append_eq_of_add_le (by decide)]
    decide
  · repeat rw [BitVec.extractLsb'_append_eq_of_le (by decide)]
    rw [BitVec.extractLsb'_append_eq_of_add_le (by decide)]
    decide
  · repeat rw [BitVec.extractLsb'_append_eq_of_le (by decide)]
    decide

/-- Settles O44: the offsets named are neither writable registers nor bytes of IN_BUF, those that read as zero name no
byte of OUT_BUF either, and a reserved field is read as zero whatever the register holds. -/
theorem readOnlyAndReservedIgnoreWrites : Obligations.ReadOnlyAndReservedIgnoreWrites := by
  unfold Obligations.ReadOnlyAndReservedIgnoreWrites
  refine ⟨fun s o v ho => ?_, fun s o h h' => ?_, fun s o v h h' => ?_, fun s o h _ => ?_, fun s v _ => ?_,
    fun s v => ?_⟩
  · refine busWrite_eq_self ?_ (inBufIndex_eq_none (by omega)) v
    simp only [List.mem_cons, List.not_mem_nil, or_false]
    omega
  · exact busRead_eq_zero h (inBufIndex_eq_none (.inl h')) (outBufIndex_eq_none (by omega))
  · have hin : s.inBufIndex o = none := inBufIndex_eq_none (by omega)
    refine ⟨busWrite_eq_self ?_ hin v, busRead_eq_zero (by omega) hin (outBufIndex_eq_none (.inl h'))⟩
    simp only [List.mem_cons, List.not_mem_nil, or_false]
    omega
  · exact busRead_eq_zero (by omega) (inBufIndex_eq_none (by omega)) (outBufIndex_eq_none (.inr h))
  · exact ⟨extractLsb'_setWidth_above _ 32 16, extractLsb'_setWidth_above _ 32 16, extractLsb'_setWidth_above _ 32 2⟩
  · exact ⟨extractLsb'_setWidth_above _ 32 31, Status.toWord_reserved _ _⟩

/-! ### The IRQ line -/

theorem irq_iff (s : State) : s.irq = true ↔ s.irqEn = true ∧ (s.status.done = true ∨ s.status.ovr = true) := by
  simp only [State.irq, Bool.and_eq_true, Bool.or_eq_true]

theorem busWrite_statusOffset (s : State) (v : Word) : s.busWrite 0x010 v = s.writeStatus v := rfl

theorem busWrite_ctrlOffset (s : State) (v : Word) : s.busWrite 0x00C v = s.writeCtrl v := rfl

/-- Settles O46: bits 1 and 3 of the word written to STATUS clear DONE and OVR, bit 0 of the word written to CTRL is the
new IRQ_EN. -/
theorem irqFollowsEnableDoneAndOvr : Obligations.IrqFollowsEnableDoneAndOvr := by
  unfold Obligations.IrqFollowsEnableDoneAndOvr
  intro s
  refine ⟨irq_iff s, ?_, ?_⟩
  · rw [busWrite_statusOffset]
    simp [State.irq, Status.w1c]
  · rw [busWrite_ctrlOffset]
    simp [State.irq, State.writeCtrl]

/-! ### The reset state -/

/-- Settles O50: each register of the reset state, evaluated. -/
theorem resetStateMatchesTheTable : Obligations.ResetStateMatchesTheTable := by
  unfold Obligations.ResetStateMatchesTheTable
  decide

end Sys2Proof.Machine
end

section
/-! PROOFS. The bus (20_memory.md): what the registers and the buffer windows read as, what a write stores, and which
accesses reach the block. -/

namespace Sys2Proof.Machine

/-! ### Fields of a word as numbers -/

/-- The number of two joined fields: the upper one counts in units of `2 ^ n`. -/
theorem toNat_append_eq_add {m n : Nat} (x : BitVec m) (y : BitVec n) :
    (x ++ y).toNat = y.toNat + x.toNat * 2 ^ n := by
  rw [BitVec.toNat_append, ← Nat.shiftLeft_add_eq_or_of_lt y.isLt, Nat.shiftLeft_eq, Nat.add_comm]

/-- `LEword` (20_memory.md R60): the lowest index in bits 7:0. -/
theorem leWord_toNat (b0 b1 b2 b3 : Byte) :
    (leWord b0 b1 b2 b3).toNat = b0.toNat + b1.toNat * 2 ^ 8 + b2.toNat * 2 ^ 16 + b3.toNat * 2 ^ 24 := by
  simp only [leWord, toNat_append_eq_add]
  omega

/-- The word of a word's four bytes is the word. -/
theorem leWord_bytes (v : Word) :
    leWord (v.extractLsb' 0 8) (v.extractLsb' 8 8) (v.extractLsb' 16 8) (v.extractLsb' 24 8) = v := by
  refine BitVec.eq_of_toNat_eq ?_
  simp only [leWord_toNat, BitVec.extractLsb'_toNat, Nat.shiftRight_eq_div_pow]
  omega

theorem getElem_leBytes (v : Word) {k : Nat} (hk : k < (leBytes v).length) :
    (leBytes v)[k] = v.extractLsb' (8 * k) 8 := by
  match k, hk with
  | 0, _ | 1, _ | 2, _ | 3, _ => rfl

/-! ### The buffer windows (10_state.md R34, R35) -/

/-- Both buffers fit their windows (00_scope.md R8). -/
theorem sizes_le_of_legal {p : Params} (h : p.legal = true) : p.ibufSize ≤ 0x1000 ∧ p.obufSize ≤ 0x1000 := by
  simp only [Params.legal, legalBufSize, Bool.and_eq_true, decide_eq_true_eq] at h
  omega

theorem inBufIndex_of_lt {s : State} (hs : s.params.legal = true) {j : Nat} (hj : j < s.params.ibufSize) :
    s.inBufIndex (0x1000 + j) = some j := by
  have hsize := (sizes_le_of_legal hs).1
  simp only [State.inBufIndex, inBufOffset, outBufOffset, Nat.add_sub_cancel_left]
  exact if_pos (by omega)

theorem outBufIndex_of_lt {s : State} (hs : s.params.legal = true) {j : Nat} (hj : j < s.params.obufSize) :
    s.outBufIndex (0x2000 + j) = some j := by
  have hsize := (sizes_le_of_legal hs).2
  simp only [State.outBufIndex, outBufOffset, windowSize, Nat.add_sub_cancel_left]
  exact if_pos (by omega)

/-- Beyond the last register only the buffer windows read as anything (20_memory.md R64). -/
theorem readWord_beyond_registers (s : State) {o : Nat} (ho : 0x02C ≤ o) : s.readWord o = s.windowWord o := by
  unfold State.readWord
  split
  case h_12 => rfl
  all_goals exact absurd ho (by decide)

theorem readWord_inBuf {s : State} (hs : s.params.legal = true) {j : Nat} (hj : j < s.params.ibufSize) :
    s.readWord (0x1000 + j) = s.inBuf.leWordAt j := by
  rw [readWord_beyond_registers s (by omega), State.windowWord, inBufIndex_of_lt hs hj]

theorem readWord_outBuf {s : State} (hs : s.params.legal = true) {j : Nat} (hj : j < s.params.obufSize) :
    s.readWord (0x2000 + j) = s.outBuf.leWordAt j := by
  rw [readWord_beyond_registers s (by omega), State.windowWord, inBufIndex_eq_none (.inr (.inl (by omega))),
    outBufIndex_of_lt hs hj]

/-- Settles O38: each window reads as the `LEword` of its buffer, whose number is that of its four bytes. -/
theorem bufferWordsAreLittleEndian : Obligations.BufferWordsAreLittleEndian := by
  unfold Obligations.BufferWordsAreLittleEndian
  refine fun s j hs => ⟨fun hj => ?_, fun hj => ?_⟩
  · rw [readWord_inBuf hs hj, Memory.leWordAt, leWord_toNat]
  · rw [readWord_outBuf hs hj, Memory.leWordAt, leWord_toNat]

/-! ### Writes that store their bits (20_memory.md R65) -/

@[simp] theorem interlocked_of_idle {s : State} (h : s.pending = false) (t : State) : s.interlocked t = t := by
  simp [State.interlocked, h]

theorem writeCtrl_of_no_srst {s : State} {v : Word} (hv : v.getLsbD 1 = false) :
    s.writeCtrl v = { s with irqEn := v.getLsbD 0 } := by
  rw [State.writeCtrl, hv]
  rfl

theorem busWrite_hrpLen {s : State} (h : s.pending = false) (v : Word) :
    s.busWrite 0x018 v = { s with hrpLen := v.setWidth 16 } := interlocked_of_idle h _

theorem busWrite_srcLen {s : State} (h : s.pending = false) (v : Word) :
    s.busWrite 0x01C v = { s with srcLen := v.setWidth 16 } := interlocked_of_idle h _

theorem busWrite_chk {s : State} (h : s.pending = false) (v : Word) :
    s.busWrite 0x024 v = { s with chk := v.setWidth 30 } := interlocked_of_idle h _

/-- Beyond the last register a write can reach IN_BUF only. -/
theorem busWrite_beyond_registers (s : State) {o : Nat} (ho : 0x02C ≤ o) (v : Word) :
    s.busWrite o v = s.writeWindow o v := by
  unfold State.busWrite
  split
  case h_7 => rfl
  all_goals exact absurd ho (by decide)

theorem busWrite_inBuf {s : State} (hs : s.params.legal = true) (h : s.pending = false) {j : Nat}
    (hj : j < s.params.ibufSize) (v : Word) :
    s.busWrite (0x1000 + j) v = { s with inBuf := s.inBuf.writeRun j (leBytes v) } := by
  rw [busWrite_beyond_registers s (by omega), State.writeWindow, inBufIndex_of_lt hs hj]
  exact interlocked_of_idle h _

/-- Each byte of the word just written is that byte lane of the word. -/
theorem Memory.byte_writeRun_leBytes (m : Memory) (j : Nat) (v : Word) {k : Nat} (hk : k < 4) :
    (m.writeRun j (leBytes v)).byte (j + k) = v.extractLsb' (8 * k) 8 := by
  have hlen : k < (leBytes v).length := hk
  rw [Memory.byte_writeRun_inside m j (leBytes v) hlen, getElem_leBytes]

/-- The word just written reads back. -/
theorem Memory.leWordAt_writeRun_leBytes (m : Memory) (j : Nat) (v : Word) :
    (m.writeRun j (leBytes v)).leWordAt j = v := by
  have hlane := fun k (hk : k < 4) => m.byte_writeRun_leBytes j v hk
  calc (m.writeRun j (leBytes v)).leWordAt j
      = leWord (v.extractLsb' 0 8) (v.extractLsb' 8 8) (v.extractLsb' 16 8) (v.extractLsb' 24 8) := by
        rw [← hlane 0 (by decide), ← hlane 1 (by decide), ← hlane 2 (by decide), ← hlane 3 (by decide)]
        rfl
    _ = v := leWord_bytes v

theorem readWord_busWrite_inBuf {s : State} (hs : s.params.legal = true) (h : s.pending = false) {j : Nat}
    (hj : j < s.params.ibufSize) (v : Word) : (s.busWrite (0x1000 + j) v).readWord (0x1000 + j) = v := by
  rw [readWord_inBuf (by rwa [busWrite_params]) (by rwa [busWrite_params]), busWrite_inBuf hs h hj]
  exact s.inBuf.leWordAt_writeRun_leBytes j v

/-- Settles O39: a register's write stores the low bits of the word, and a word of the IN_BUF window is a run of its four
bytes. -/
theorem idleWritesStoreTheirBits : Obligations.IdleWritesStoreTheirBits := by
  unfold Obligations.IdleWritesStoreTheirBits
  refine ⟨fun s v hv => ?_, fun s v hs hidle => ⟨?_, ?_, ?_, fun j hj => ?_⟩⟩
  · rw [busWrite_ctrlOffset, writeCtrl_of_no_srst hv]
  · rw [busWrite_hrpLen hidle, BitVec.setWidth_eq_extractLsb' (by decide)]
  · rw [busWrite_srcLen hidle, BitVec.setWidth_eq_extractLsb' (by decide)]
  · rw [busWrite_chk hidle, BitVec.setWidth_eq_extractLsb' (by decide)]
  · refine ⟨readWord_busWrite_inBuf hs hidle hj v, ?_⟩
    rw [busWrite_inBuf hs hidle hj]
    refine ⟨fun k hk => ?_, fun i hi => ?_, rfl⟩
    · exact s.inBuf.byte_writeRun_leBytes _ v hk
    · exact s.inBuf.byte_writeRun_outside _ (leBytes v) hi

/-- Settles O45: a bit of the word written to STATUS names the field it clears. -/
theorem statusWriteClearsTheNamedBits : Obligations.StatusWriteClearsTheNamedBits := by
  unfold Obligations.StatusWriteClearsTheNamedBits
  intro s v
  have hclear : ∀ b c : Bool, (b && !c) = if c then false else b := by decide
  rw [busWrite_statusOffset, State.writeStatus, Status.w1c, hclear, hclear, hclear]

/-! ### The registers as numbers (10_state.md R23 to R33) -/

theorem capsWord_toNat (s : State) :
    s.capsWord.toNat = s.params.hasB58.toNat + 2 * s.params.hasEcmul.toNat := by
  simp only [State.capsWord, toNat_append_eq_add, BitVec.toNat_ofBool, BitVec.ofNat_eq_ofNat, BitVec.toNat_ofNat]
  omega

/-- A legal size is below 2^16, so its field of BUFSZ holds it. -/
theorem bufszWord_toNat {s : State} (hs : s.params.legal = true) :
    s.bufszWord.toNat = s.params.ibufSize + 65536 * s.params.obufSize := by
  have ⟨hin, hout⟩ := sizes_le_of_legal hs
  simp only [State.bufszWord, toNat_append_eq_add, BitVec.toNat_ofNat]
  omega

theorem ctrlWord_toNat (s : State) : s.ctrlWord.toNat = s.irqEn.toNat := by
  rw [State.ctrlWord, BitVec.toNat_setWidth_of_le (by decide), BitVec.toNat_ofBool]

theorem Status.toWord_toNat (st : Status) (busy : Bool) :
    (st.toWord busy).toNat = busy.toNat + 2 * st.done.toNat + 4 * st.err.toNat + 8 * st.ovr.toNat +
      256 * st.errcode.toNat + 65536 * st.lastop.toNat := by
  simp only [Status.toWord, toNat_append_eq_add, BitVec.toNat_ofBool, BitVec.ofNat_eq_ofNat, BitVec.toNat_ofNat]
  omega

/-- Settles O40: a register is its fields joined, with zeros in the reserved bits. -/
theorem registersReadAsTheirFields : Obligations.RegistersReadAsTheirFields := by
  unfold Obligations.RegistersReadAsTheirFields
  intro s hs
  have hfield : ∀ {n : Nat} (x : BitVec n), n ≤ 32 → (x.setWidth 32).toNat = x.toNat :=
    fun _ hn => BitVec.toNat_setWidth_of_le hn
  exact ⟨rfl, capsWord_toNat s, bufszWord_toNat hs, ctrlWord_toNat s, Status.toWord_toNat s.status s.pending, rfl,
    hfield s.hrpLen (by decide), hfield s.srcLen (by decide), hfield s.dstLen (by decide), hfield s.chk (by decide),
    hfield s.cksum (by decide)⟩

/-! ### Statements that leave the block alone (20_memory.md R66, 30_encoding.md R102) -/

/-- A host read makes no write, so it keeps the block. -/
theorem hostStatement_rd_keepsBlock {s t : State} {addr width n : Nat}
    (h : hostStatement s (.rd addr width n) = .next t) : s.KeepsBlock t := by
  rcases hostStatement_keepsBlock_or_writes h with hk | ⟨_, _, _, _, hwr, -⟩
  · exact hk
  · nomatch hwr

theorem hostStatement_label (s : State) (l : Nat) : hostStatement s (.label l) = .next s.advanceHost := rfl

/-- A branch moves the host's position and nothing else. -/
theorem hostStatement_ifGoto_frame {s t : State} {c : Cond} {l : Nat} (h : hostStatement s (.ifGoto c l) = .next t) :
    t = { s with host := t.host } := by
  rw [hostStatement] at h
  split at h
  case h_1 => nomatch h
  case h_2 => cases h; rfl
  case h_3 =>
    split at h
    · nomatch h
    · cases h; rfl

theorem hostStatement_expect_of_bound {s : State} {c : Cond} {holds : Bool}
    (hc : c.eval s.host.names s.irq = some holds) :
    hostStatement s (.expect c) = .next (s.noteExpect holds).advanceHost := by
  rw [hostStatement, hc]

theorem hostStatement_expect_frame {s t : State} {c : Cond} (h : hostStatement s (.expect c) = .next t) :
    t = { s with host := t.host } := by
  cases hc : c.eval s.host.names s.irq with
  | none => rw [hostStatement, hc] at h; nomatch h
  | some holds =>
    rw [hostStatement_expect_of_bound hc] at h
    cases h
    rfl

/-- Settles O42: a read is no write in the window, and the three statements without a bus access change the host agent
alone. -/
theorem readsLeaveTheBlockUnchanged : Obligations.ReadsLeaveTheBlockUnchanged := by
  unfold Obligations.ReadsLeaveTheBlockUnchanged
  refine ⟨fun s t addr width n h => ?_, fun s t l c h => ?_, fun s c holds hc => ?_⟩
  · exact (hostStatement_rd_keepsBlock h).frame
  · rcases h with h | h | h
    · rw [hostStatement_label] at h
      cases h
      rfl
    · exact hostStatement_ifGoto_frame h
    · exact hostStatement_expect_frame h
  · exact ⟨_, hostStatement_expect_of_bound hc, rfl, rfl⟩

/-! ### The four answers of the port (20_memory.md R62 to R65, R68) -/

theorem busTransact_elsewhere {s : State} {addr : Nat} (h : addr < s.params.base ∨ s.params.base + 0x3000 ≤ addr)
    (width : Nat) (d : BusDir) : busTransact s addr width d = .next (s.accessElsewhere d) := by
  have hin : s.inWindow addr = false := by
    rw [← Bool.not_eq_true, inWindow_iff]
    omega
  simp [busTransact, hin]

section
variable {s : State} {addr : Nat} (hbase : s.params.base ≤ addr) (hend : addr < s.params.base + 0x3000)
include hbase hend

theorem busTransact_width {width : Nat} (hw : width ≠ 4) (d : BusDir) :
    busTransact s addr width d = .fault .busErrorWidth := by
  simp [busTransact, (inWindow_iff s addr).mpr ⟨hbase, hend⟩, hw]

theorem busTransact_align (ha : (addr - s.params.base) % 4 ≠ 0) (d : BusDir) :
    busTransact s addr 4 d = .fault .busErrorAlign := by
  simp [busTransact, (inWindow_iff s addr).mpr ⟨hbase, hend⟩, ha]

theorem busTransact_inside (ha : (addr - s.params.base) % 4 = 0) (d : BusDir) :
    busTransact s addr 4 d = .next (s.accessInside (addr - s.params.base) d) := by
  simp [busTransact, (inWindow_iff s addr).mpr ⟨hbase, hend⟩, ha]

/-- A host `WR` of an aligned word in the window is that write. -/
theorem hostStatement_wr_inside (ha : (addr - s.params.base) % 4 = 0) {e : Expr} {v : Word}
    (hv : e.eval s.host.names = some v) :
    hostStatement s (.wr addr 4 e) = .next (s.accessInside (addr - s.params.base) (.write v)).advanceHost := by
  simp only [hostStatement, hv, busTransact_inside hbase hend ha, mapNext]

/-- A host `RD` of an aligned word in the window is that read, its data bound to the name. -/
theorem hostStatement_rd_inside (ha : (addr - s.params.base) % 4 = 0) (n : Nat) :
    hostStatement s (.rd addr 4 n) =
      .next ((s.accessInside (addr - s.params.base) .read).bindResponse n).advanceHost := by
  simp only [hostStatement, busTransact_inside hbase hend ha, mapNext]

end

/-- An access outside the window keeps the host agent too. -/
theorem accessElsewhere_frame (s : State) (d : BusDir) :
    s.accessElsewhere d = { s with resp := (s.accessElsewhere d).resp, draws := (s.accessElsewhere d).draws } := by
  cases d <;> rfl

/-- The read data of an access in the window is what its response binds. -/
theorem bindResponse_accessInside_read (s : State) (o n : Nat) :
    (s.accessInside o .read).bindResponse n =
      { s.accessInside o .read with
        host := { s.host with names := bindName s.host.names n (s.busRead o).1 } } := by
  simp [State.bindResponse, State.accessInside]

/-- Taking a name off the list leaves what the other names are bound to. -/
theorem lookup_filter_ne (names : List (Nat × Word)) {n m : Nat} (h : m ≠ n) :
    (names.filter (fun p => p.1 != n)).lookup m = names.lookup m := by
  induction names with
  | nil => rfl
  | cons p ps ih =>
    obtain ⟨k, v⟩ := p
    by_cases hk : k = n
    · subst hk
      simp [List.lookup_cons, ih, beq_eq_false_iff_ne.mpr h]
    · simp [List.lookup_cons, ih, hk]

theorem lookupName_bindName (names : List (Nat × Word)) (n m : Nat) (v : Word) :
    lookupName (bindName names n v) m = if m = n then some v else lookupName names m := by
  by_cases h : m = n
  · simp [lookupName, bindName, h]
  · simp [lookupName, bindName, List.lookup_cons, beq_eq_false_iff_ne.mpr h, h, lookup_filter_ne names h]

/-- Settles O47: the port's four answers, one for each side of the window and of R62's two conditions; the host's
statements go on from its OKAY response. -/
theorem accessesAreAlignedWordsInTheWindow : Obligations.AccessesAreAlignedWordsInTheWindow := by
  unfold Obligations.AccessesAreAlignedWordsInTheWindow
  refine ⟨fun s addr width d => ⟨fun hout => ?_, fun hbase hend => ⟨fun hw => ?_, fun hw ha => ?_⟩⟩,
    fun s addr hbase hend ha => ⟨fun v => ?_, ?_, fun e v hv => ?_, fun n => ?_⟩, lookupName_bindName⟩
  · exact ⟨_, busTransact_elsewhere hout width d, accessElsewhere_frame s d⟩
  · exact busTransact_width hbase hend hw d
  · rw [hw, busTransact_align hbase hend ha]
  · exact busTransact_inside hbase hend ha _
  · exact busTransact_inside hbase hend ha _
  · rw [hostStatement_wr_inside hbase hend ha hv]
    simp [State.advanceHost, State.accessInside]
  · rw [hostStatement_rd_inside hbase hend ha, bindResponse_accessInside_read]
    simp [State.advanceHost, State.accessInside]

end Sys2Proof.Machine
end

section
/-! PROOFS. The encoding (30_encoding.md): the decoder against the encoder and the rules of illegal and reserved words,
acceptance and completion, the errors of lengths, and the expansion of LOAD. -/

namespace Sys2Proof.Machine

/-! ### The fields of a command word (R90, R101) -/

theorem cmdOp_encode (i : Instr) : cmdOp (encode i) = opcode i :=
  BitVec.extractLsb'_append_eq_right

theorem cmdImm_encode (i : Instr) : cmdImm (encode i) = immediate i := by
  unfold cmdImm encode
  rw [BitVec.extractLsb'_append_eq_of_le (by decide)]
  exact BitVec.extractLsb'_append_eq_right

theorem cmdRsvd_encode (i : Instr) : cmdRsvd (encode i) = 0 := by
  unfold cmdRsvd encode
  rw [BitVec.extractLsb'_append_eq_of_le (by decide), BitVec.extractLsb'_append_eq_of_le (by decide)]
  decide

/-- A command word is its three fields (R90). -/
theorem fields_append (w : Word) : cmdRsvd w ++ cmdImm w ++ cmdOp w = w := by
  refine BitVec.eq_of_toNat_eq ?_
  simp only [cmdRsvd, cmdImm, cmdOp, toNat_append_eq_add, BitVec.extractLsb'_toNat, Nat.shiftRight_eq_div_pow]
  omega

/-! ### The opcode map (R92) -/

theorem decodeOp_opcode (i : Instr) : decodeOp (opcode i) (immediate i) = some i := by
  cases i <;> rfl

/-- Only POLY_STEP has an immediate. -/
theorem immediate_eq_zero {i : Instr} (h : opcode i ≠ 0x02) : immediate i = 0 := by
  cases i with
  | polyStep imm => exact absurd rfl h
  | _ => rfl

/-- The map reads an opcode as the command that has it, and POLY_STEP's immediate as it stands. -/
theorem opcode_of_decodeOp {op imm : Byte} {i : Instr} (h : decodeOp op imm = some i) :
    opcode i = op ∧ (op = 0x02 → immediate i = imm) := by
  unfold decodeOp at h
  split at h
  case h_17 => nomatch h
  case h_3 hop =>
    cases h
    exact ⟨(BitVec.eq_of_toNat_eq hop).symm, fun _ => rfl⟩
  all_goals
    rename_i hop
    cases h
    exact ⟨(BitVec.eq_of_toNat_eq hop).symm, fun h2 => absurd (h2 ▸ hop) (by decide)⟩

/-- The opcodes that the map leaves undefined are R93's four ranges. -/
theorem decodeOp_eq_none_iff (op imm : Byte) :
    decodeOp op imm = none ↔
      (0x0C ≤ op.toNat ∧ op.toNat ≤ 0x0F) ∨ (0x12 ≤ op.toNat ∧ op.toNat ≤ 0x1F) ∨
        (0x21 ≤ op.toNat ∧ op.toNat ≤ 0x2F) ∨ (0x31 ≤ op.toNat ∧ op.toNat ≤ 0xFF) := by
  have hlt := op.isLt
  unfold decodeOp
  split
  case h_17 =>
    simp only [true_iff, imp_false] at *
    omega
  all_goals
    simp only [reduceCtorEq, false_iff]
    omega

/-- The absent options by their opcodes (R93). -/
theorem wf_eq_false_iff (p : Params) (i : Instr) :
    i.wf p = false ↔
      (((opcode i).toNat = 0x10 ∨ (opcode i).toNat = 0x11) ∧ p.hasB58 = false) ∨
        ((opcode i).toNat = 0x20 ∧ p.hasEcmul = false) := by
  cases i <;> simp [Instr.wf, opcode]

/-! ### Illegal and reserved words (R93, R94) -/

/-- A word is illegal where the map leaves its opcode undefined or the opcode is one of an absent option. -/
theorem illegalWord_iff_undefined_or_absent (p : Params) (w : Word) :
    illegalWord p w ↔
      decodeOp (cmdOp w) (cmdImm w) = none ∨
        (((cmdOp w).toNat = 0x10 ∨ (cmdOp w).toNat = 0x11) ∧ p.hasB58 = false) ∨
          ((cmdOp w).toNat = 0x20 ∧ p.hasEcmul = false) := by
  rw [decodeOp_eq_none_iff]
  simp only [or_assoc]
  rfl

/-- A word is legal where its opcode names a command that the block implements. -/
theorem illegalWord_iff (p : Params) (w : Word) :
    illegalWord p w ↔ ∀ i, decodeOp (cmdOp w) (cmdImm w) = some i → i.wf p = false := by
  rw [illegalWord_iff_undefined_or_absent]
  cases h : decodeOp (cmdOp w) (cmdImm w) with
  | none => simp
  | some i =>
    obtain ⟨hop, -⟩ := opcode_of_decodeOp h
    simp [wf_eq_false_iff, hop]

theorem reservedNonzero_iff (w : Word) : reservedNonzero w = true ↔ reservedWord w := by
  simp only [reservedNonzero, reservedWord, cmdRsvd, cmdOp, cmdImm, Bool.or_eq_true, Bool.and_eq_true, bne_iff_ne]

theorem reservedNonzero_encode (i : Instr) : reservedNonzero (encode i) = false := by
  rw [← Bool.not_eq_true, reservedNonzero_iff]
  rintro (h | ⟨hop, himm⟩)
  · exact h (cmdRsvd_encode i)
  · exact himm ((cmdImm_encode i).trans (immediate_eq_zero (cmdOp_encode i ▸ hop)))

/-! ### The decoder (R96) -/

theorem decode_of_illegal {p : Params} {w : Word} (h : illegalWord p w) : decode p w = .error .illegalOp := by
  rw [illegalWord_iff] at h
  unfold decode
  cases hd : decodeOp (cmdOp w) (cmdImm w) with
  | none => rfl
  | some i => simp [h i hd]

/-- The decoder names a command for a legal opcode, and then checks the reserved fields. -/
theorem decode_of_legal {p : Params} {w : Word} (h : ¬ illegalWord p w) :
    ∃ i, decodeOp (cmdOp w) (cmdImm w) = some i ∧
      decode p w = if reservedNonzero w then .error .reservedField else .ok i := by
  simp only [illegalWord_iff, not_forall, Bool.not_eq_false] at h
  obtain ⟨i, hd, hwf⟩ := h
  exact ⟨i, hd, by simp [decode, hd, hwf]⟩

theorem decode_of_reserved {p : Params} {w : Word} (h : ¬ illegalWord p w) (hr : reservedWord w) :
    decode p w = .error .reservedField := by
  obtain ⟨i, -, hdec⟩ := decode_of_legal h
  rw [hdec, if_pos ((reservedNonzero_iff w).mpr hr)]

/-- A word whose reserved fields are zero is the encoding of the command its opcode names. -/
theorem encode_of_decodeOp {w : Word} {i : Instr} (hr : ¬ reservedWord w)
    (h : decodeOp (cmdOp w) (cmdImm w) = some i) : encode i = w := by
  simp only [reservedWord, not_or, not_and, not_not] at hr
  obtain ⟨hrsvd, himm⟩ := hr
  obtain ⟨hop, hstep⟩ := opcode_of_decodeOp h
  have himmediate : immediate i = cmdImm w := by
    by_cases h2 : cmdOp w = 0x02
    · exact hstep h2
    · exact (immediate_eq_zero (hop ▸ h2)).trans (himm h2).symm
  calc encode i = (0 : BitVec 16) ++ immediate i ++ opcode i := rfl
    _ = cmdRsvd w ++ cmdImm w ++ cmdOp w := by rw [himmediate, hop, cmdRsvd, hrsvd]
    _ = w := fields_append w

theorem decode_of_unreserved {p : Params} {w : Word} (h : ¬ illegalWord p w) (hr : ¬ reservedWord w) :
    ∃ i, decode p w = .ok i ∧ w = encode i := by
  obtain ⟨i, hd, hdec⟩ := decode_of_legal h
  exact ⟨i, by rw [hdec, if_neg (mt (reservedNonzero_iff w).mp hr)], (encode_of_decodeOp hr hd).symm⟩

/-- Settles O1: the fields of a command's word are its opcode and its immediate, which the map turns back into it, and
none is reserved and nonzero. -/
theorem decodeOfEncodeIsTheCommand : Obligations.DecodeOfEncodeIsTheCommand := by
  unfold Obligations.DecodeOfEncodeIsTheCommand
  intro p i hwf
  have hop : decodeOp (cmdOp (encode i)) (cmdImm (encode i)) = some i := by
    rw [cmdOp_encode, cmdImm_encode, decodeOp_opcode]
  simp [decode, hop, hwf, reservedNonzero_encode]

/-- Settles O4: the words evaluated. -/
theorem wordsOfTheTableDecode : Obligations.WordsOfTheTableDecode := by
  unfold Obligations.WordsOfTheTableDecode
  decide

/-! ### The engine's step (R96, R99) -/

theorem step_of_engine {s : State} (h : s.mover = .engine) : step s = engineStep s.takeTurn := by
  unfold step machineStep
  rw [h]

theorem engineStep_of_idle {s : State} (h : s.pending = false) : engineStep s = .next s := by
  simp [engineStep, h]

theorem engineStep_of_command {s : State} {i : Instr} (hp : s.pending = true) (h : decode s.params s.cmd = .ok i) :
    engineStep s = exec i s := by
  simp [engineStep, hp, h]

theorem engineStep_of_rejected {s : State} {e : DecodeError} (hp : s.pending = true)
    (h : decode s.params s.cmd = .error e) : engineStep s = .next (s.completeError (decodeErrorToCmd e)) := by
  simp [engineStep, hp, h]

/-- A pending word that the decoder rejects completes in the error it gives. -/
theorem step_of_rejected {s : State} {e : DecodeError} (hs : s.inFlight) (hm : s.mover = .engine)
    (h : decode s.params s.cmd = .error e) : ∃ t, step s = .next t ∧ failed s.takeTurn t (decodeErrorToCmd e) := by
  obtain ⟨-, hp⟩ := hs
  refine ⟨_, ?_, completeError_failed s.takeTurn _⟩
  rw [step_of_engine hm]
  exact engineStep_of_rejected hp h

/-- Settles O2: the decoder rejects R93's words, and answers every other word with RESERVED_FIELD or a command. -/
theorem illegalWordsCompleteWithIllegalOp : Obligations.IllegalWordsCompleteWithIllegalOp := by
  unfold Obligations.IllegalWordsCompleteWithIllegalOp
  refine fun s hs hm => ⟨fun hill => step_of_rejected hs hm (decode_of_illegal hill), fun hlegal => ?_⟩
  obtain ⟨i, -, hdec⟩ := decode_of_legal hlegal
  rw [hdec]
  split <;> simp

/-- Settles O3: of the legal words the decoder rejects those with a nonzero reserved field, and every other is the
encoding of its command. -/
theorem reservedFieldsCompleteWithReservedField : Obligations.ReservedFieldsCompleteWithReservedField := by
  unfold Obligations.ReservedFieldsCompleteWithReservedField
  exact fun s hs hm hlegal =>
    ⟨fun hr => step_of_rejected hs hm (decode_of_reserved hlegal hr), decode_of_unreserved hlegal⟩

/-- Settles O5: taking the turn off the order leaves what the engine decodes. -/
theorem stepRunsTheDecodedCommand : Obligations.StepRunsTheDecodedCommand := by
  unfold Obligations.StepRunsTheDecodedCommand
  intro s i hm hp h
  rw [step_of_engine hm]
  exact engineStep_of_command hp h

/-! ### Acceptance (R97) -/

theorem busWrite_cmd {s : State} (h : s.pending = false) (v : Word) : s.busWrite 0x014 v = s.accept v :=
  interlocked_of_idle h _

/-- Settles O6: a CMD write while idle is `Accept`. -/
theorem cmdWriteWhileIdleIsAccepted : Obligations.CmdWriteWhileIdleIsAccepted := by
  unfold Obligations.CmdWriteWhileIdleIsAccepted
  intro s v h
  rw [busWrite_cmd h]
  rfl

/-! ### Completion (R99) -/

/-- Every completion sets DONE and clears BUSY, and beyond the operands and results it can write ERR and ERRCODE
only. -/
theorem complete_frame (s : State) (res : Except CmdError Result) :
    s.complete res =
      { s with
        inBuf := (s.complete res).inBuf, outBuf := (s.complete res).outBuf, hrpLen := (s.complete res).hrpLen
        srcLen := (s.complete res).srcLen, dstLen := (s.complete res).dstLen, chk := (s.complete res).chk
        cksum := (s.complete res).cksum, pending := false
        status := { s.status with
          done := true, err := (s.complete res).status.err, errcode := (s.complete res).status.errcode } } := by
  rcases complete_cases s res with ⟨e, -, h⟩ | ⟨r, -, -, h⟩
  · rw [h]
    rfl
  · rw [h, commit_frame]
    rfl

/-- While a command is pending the engine's move is a completion. -/
theorem engineStep_of_pending {s : State} (hp : s.pending = true) : ∃ res, engineStep s = .next (s.complete res) := by
  cases h : decode s.params s.cmd with
  | error e => exact ⟨.error (decodeErrorToCmd e), engineStep_of_rejected hp h⟩
  | ok i => exact ⟨ruleOf i s, (engineStep_of_command hp h).trans (exec_eq_complete i s)⟩

/-- BUSY and DONE are bits 0 and 1 of STATUS (10_state.md R27). -/
theorem statusWord_busy (s : State) : s.statusWord.getLsbD 0 = s.pending := by
  simp only [State.statusWord, Status.toWord, BitVec.getLsbD_append]
  simp

theorem statusWord_done (s : State) : s.statusWord.getLsbD 1 = s.status.done := by
  simp only [State.statusWord, Status.toWord, BitVec.getLsbD_append]
  simp

/-- Settles O7: while a command is pending the move is a completion, whose frame names every field. -/
theorem engineCompletesExactlyWhilePending : Obligations.EngineCompletesExactlyWhilePending := by
  unfold Obligations.EngineCompletesExactlyWhilePending
  refine fun s => ⟨engineStep_of_idle, fun hp => ?_⟩
  obtain ⟨res, h⟩ := engineStep_of_pending hp
  refine ⟨_, h, ?_⟩
  rw [statusWord_busy, statusWord_done, complete_frame]
  exact ⟨rfl, rfl, rfl, rfl, rfl, rfl, rfl, rfl, rfl, rfl, rfl⟩

/-! ### How a command's rule ends it (R95, R98) -/

/-- A command whose rule and output check give an error completes in it. -/
theorem exec_of_misfit {i : Instr} {s : State} {e : CmdError} (h : fitOutput s.params (ruleOf i s) = .error e) :
    ∃ t, exec i s = .next t ∧ failed s t e := by
  refine ⟨_, exec_eq_complete i s, ?_⟩
  rw [complete_of_error h]
  exact completeError_failed s e

theorem exec_of_error {i : Instr} {s : State} {e : CmdError} (h : ruleOf i s = .error e) :
    ∃ t, exec i s = .next t ∧ failed s t e :=
  exec_of_misfit (by rw [h, fitOutput_error])

theorem exec_of_long {i : Instr} {s : State} {r : Result} (h : ruleOf i s = .ok r)
    (hlen : s.params.obufSize < (r.out.getD []).length) : ∃ t, exec i s = .next t ∧ failed s t .outLength :=
  exec_of_misfit (by rw [h, fitOutput_outLength hlen])

/-- A success leaves ERR and ERRCODE as the acceptance cleared them. -/
theorem State.inFlight.status_completed {s : State} (h : s.inFlight) :
    s.status.completed = { s.status with done := true, err := false, errcode := 0 } := by
  obtain ⟨-, herr, hcode⟩ := h.outcome_cleared
  rw [Status.completed, ← herr, ← hcode]

theorem exec_of_fitting {i : Instr} {s : State} {r : Result} (hs : s.inFlight) (h : ruleOf i s = .ok r)
    (hlen : (r.out.getD []).length ≤ s.params.obufSize) : ∃ t, exec i s = .next t ∧ succeeded s t := by
  refine ⟨_, exec_eq_complete i s, ?_⟩
  rw [h, complete_of_ok (fitOutput_ok hlen)]
  exact ⟨rfl, hs.status_completed⟩

theorem withRegions_of_fit {s : State} (h : s.regionsFit = true)
    (body : List Byte → List Byte → Except CmdError Result) : s.withRegions body = body s.regionH s.regionD :=
  if_pos h

theorem withRegions_of_overlong {s : State} (h : s.params.ibufSize < s.hrpLen.toNat + s.srcLen.toNat)
    (body : List Byte → List Byte → Except CmdError Result) : s.withRegions body = .error .inLength :=
  if_neg (by simpa [State.regionsFit] using h)

@[simp] theorem whenPresent_true (body : Except CmdError Result) : whenPresent true body = body := rfl

@[simp] theorem whenPresent_false (body : Except CmdError Result) : whenPresent false body = .error .illegalOp := rfl

/-- The rule of a command whose option is absent (R93). -/
theorem ruleOf_of_absent {i : Instr} {s : State} (h : i.wf s.params = false) : ruleOf i s = .error .illegalOp := by
  cases i with
  | b58Encode | b58Decode => simp only [ruleOf, ruleB58Encode, ruleB58Decode, show s.params.hasB58 = false from h,
      whenPresent_false]
  | ecPubkey => simp only [ruleOf, ruleEcPubkey, show s.params.hasEcmul = false from h, whenPresent_false]
  | _ => nomatch h

/-- The rule of a command that reads IN_BUF, where the regions exceed it (R95). -/
theorem ruleOf_of_overlong {i : Instr} {s : State} (hwf : i.wf s.params = true) (hr : readsInBuf i = true)
    (h : s.params.ibufSize < s.hrpLen.toNat + s.srcLen.toNat) : ruleOf i s = .error .inLength := by
  have hover := withRegions_of_overlong h
  cases i with
  | nop | polyInit | polyStep imm | zeroize => nomatch hr
  | b58Encode | b58Decode =>
    simp only [ruleOf, ruleB58Encode, ruleB58Decode, show s.params.hasB58 = true from hwf, whenPresent_true, hover]
  | ecPubkey => simp only [ruleOf, ruleEcPubkey, show s.params.hasEcmul = true from hwf, whenPresent_true, hover]
  | polyHrp | polyData | expand | createChecksum | charsetMap =>
    simp only [ruleOf, rulePolyHrp, rulePolyData, ruleExpand, ruleCreateChecksum, ruleCharsetMap, hover]
  | repack8to5 | repack5to8 | b32Encode | segwitEncode =>
    simp only [ruleOf, ruleRepack8to5, ruleRepack5to8, ruleB32Encode, ruleSegwitEncode, hover]

/-- The rule of a command that does not read IN_BUF succeeds without an output. -/
theorem ruleOf_of_not_readsInBuf {i : Instr} (s : State) (h : readsInBuf i = false) :
    ∃ r, ruleOf i s = .ok r ∧ r.out = none := by
  cases i with
  | nop | polyInit | polyStep imm | zeroize => exact ⟨_, rfl, rfl⟩
  | _ => nomatch h

/-- Settles O10: each of the three cases is a case of the command's rule. -/
theorem absentOptionsAndOverlongRegionsFail : Obligations.AbsentOptionsAndOverlongRegionsFail := by
  unfold Obligations.AbsentOptionsAndOverlongRegionsFail
  refine fun i s hs => ⟨fun hwf => exec_of_error (ruleOf_of_absent hwf),
    fun hwf hr hover => exec_of_error (ruleOf_of_overlong hwf hr hover), fun hr => ?_⟩
  obtain ⟨r, hrule, hout⟩ := ruleOf_of_not_readsInBuf s hr
  exact exec_of_fitting hs hrule (by simp [hout])

/-! ### The lengths of the results (40_checksum_codec.md R131, 41_bech32_framing.md R160 to R164) -/

@[simp] theorem length_regionH (s : State) : s.regionH.length = s.hrpLen.toNat := Memory.length_bytes _ _ _

@[simp] theorem length_regionD (s : State) : s.regionD.length = s.srcLen.toNat := Memory.length_bytes _ _ _

@[simp] theorem length_expandHrp (h : List Byte) : (expandHrp h).length = 2 * h.length + 1 := by
  simp only [expandHrp, List.length_append, List.length_map, List.length_singleton]
  omega

@[simp] theorem length_groups6 (x : Acc) : (groups6 x).length = 6 := rfl

@[simp] theorem length_address (h vals : List Byte) : (address h vals).length = h.length + vals.length + 7 := by
  simp only [address, List.length_append, List.length_map, List.length_singleton, length_groups6]
  omega

/-- The groups taken off `bits` unread bits, and the bits that fill no group, when the turns suffice. -/
theorem emitGroups_lengths {w : Nat} (hw : 0 < w) (acc : Nat) {fuel bits : Nat} (h : bits ≤ fuel) :
    (emitGroups w acc fuel bits).1.length = bits / w ∧ (emitGroups w acc fuel bits).2 = bits % w := by
  induction fuel generalizing bits with
  | zero =>
    obtain rfl : bits = 0 := by omega
    simp [emitGroups]
  | succ fuel ih =>
    by_cases hle : w ≤ bits
    · obtain ⟨hlen, hrest⟩ := ih (bits := bits - w) (by omega)
      simp only [emitGroups, if_pos hle, List.length_cons, hlen, hrest]
      exact ⟨(Nat.div_eq_sub_div hw hle).symm, (Nat.mod_eq_sub_mod hle).symm⟩
    · simp [emitGroups, hle, Nat.div_eq_of_lt, Nat.mod_eq_of_lt, Nat.lt_of_not_le hle]

/-- The re-packing of `n` groups of `inW` bits behind `bits` unread ones. -/
theorem repackLoop_lengths (inW : Nat) {outW : Nat} (hw : 0 < outW) (xs : List Byte) (acc bits : Nat)
    (hbits : bits < outW) :
    (repackLoop inW outW xs acc bits).1.length = (bits + inW * xs.length) / outW ∧
      (repackLoop inW outW xs acc bits).2.2 = (bits + inW * xs.length) % outW := by
  induction xs generalizing acc bits with
  | nil => simp [repackLoop, Nat.div_eq_of_lt hbits, Nat.mod_eq_of_lt hbits]
  | cons x xs ih =>
    obtain ⟨hlen, hrest⟩ := emitGroups_lengths hw ((acc <<< inW) ||| x.toNat) (Nat.le_refl (bits + inW))
    obtain ⟨ihlen, ihrest⟩ := ih ((acc <<< inW) ||| x.toNat) ((bits + inW) % outW) (Nat.mod_lt _ hw)
    have hsplit : bits + inW * (xs.length + 1) =
        (bits + inW) % outW + inW * xs.length + outW * ((bits + inW) / outW) := by
      have := Nat.mod_add_div (bits + inW) outW
      rw [Nat.mul_succ]
      omega
    simp only [repackLoop, List.length_append, List.length_cons, hlen, hrest, ihlen, ihrest, hsplit]
    rw [Nat.add_mul_div_left _ _ hw, Nat.add_mul_mod_self_left]
    exact ⟨Nat.add_comm _ _, rfl⟩

@[simp] theorem length_repack85 (b : List Byte) : (repack85 b).length = (8 * b.length + 4) / 5 := by
  obtain ⟨hlen, hrest⟩ := repackLoop_lengths 8 (by decide : 0 < 5) b 0 0 (by decide)
  simp only [repack85]
  split
  · rw [List.length_append, hlen, List.length_singleton]
    omega
  · rw [hlen]
    omega

@[simp] theorem length_repack58 (v : List Byte) : (repack58 v).length = 5 * v.length / 8 := by
  rw [repack58, (repackLoop_lengths 5 (by decide : 0 < 8) v 0 0 (by decide)).1, Nat.zero_add]

/-! ### The values a rule requires (40_checksum_codec.md R133, 42_base58.md R190) -/

theorem whenSymbols_of_symbols {d : List Byte} (h : ∀ b ∈ d, b.toNat < 32) (body : Except CmdError Result) :
    whenSymbols d body = body :=
  if_pos (List.all_eq_true.mpr fun b hb => decide_eq_true (h b hb))

/-- R190's ranges are the characters of ALPHA. -/
theorem contains_alpha_iff (c : Byte) : alpha.contains c = true ↔ inAlpha c := by
  unfold inAlpha
  decide +kernel +revert

theorem allAlpha_iff (v : List Byte) : allAlpha v = true ↔ ∀ c ∈ v, inAlpha c := by
  simp only [allAlpha, List.all_eq_true, contains_alpha_iff]

/-! ### The rules on regions that fit -/

section
variable {s : State} (hfit : s.regionsFit = true)
include hfit

theorem ruleOf_expand : ruleOf .expand s = .ok { out := some (expandHrp s.regionH) } := by
  rw [ruleOf, ruleExpand, withRegions_of_fit hfit]

theorem ruleOf_charsetMap (hsym : s.dataIsSymbols) :
    ruleOf .charsetMap s = .ok { out := some (s.regionD.map charsetByte) } := by
  rw [ruleOf, ruleCharsetMap, withRegions_of_fit hfit, whenSymbols_of_symbols hsym]

theorem ruleOf_repack8to5 : ruleOf .repack8to5 s = .ok { out := some (repack85 s.regionD) } := by
  rw [ruleOf, ruleRepack8to5, withRegions_of_fit hfit]

theorem ruleOf_repack5to8 (hsym : s.dataIsSymbols) :
    ruleOf .repack5to8 s = .ok { out := some (repack58 s.regionD) } := by
  rw [ruleOf, ruleRepack5to8, withRegions_of_fit hfit, whenSymbols_of_symbols hsym]

theorem ruleOf_b32Encode (hsym : s.dataIsSymbols) :
    ruleOf .b32Encode s = .ok (frameResult s.regionH s.regionD) := by
  rw [ruleOf, ruleB32Encode, withRegions_of_fit hfit, whenSymbols_of_symbols hsym]

theorem ruleOf_segwitEncode : ruleOf .segwitEncode s = .ok (frameResult s.regionH (0 :: repack85 s.regionD)) := by
  rw [ruleOf, ruleSegwitEncode, withRegions_of_fit hfit]

theorem ruleOf_b58Encode (hopt : s.params.hasB58 = true) :
    ruleOf .b58Encode s = .ok { out := some (b58enc s.regionD) } := by
  rw [ruleOf, ruleB58Encode, hopt, whenPresent_true, withRegions_of_fit hfit]

theorem ruleOf_b58Decode (hopt : s.params.hasB58 = true) (halpha : ∀ c ∈ s.regionD, inAlpha c) :
    ruleOf .b58Decode s = .ok { out := some (b58dec s.regionD) } := by
  rw [ruleOf, ruleB58Decode, hopt, whenPresent_true, withRegions_of_fit hfit, if_pos ((allAlpha_iff _).mpr halpha)]

end

/-- The output of a framing is the address (41_bech32_framing.md R165). -/
theorem length_frameResult (h vals : List Byte) :
    ((frameResult h vals).out.getD []).length = h.length + vals.length + 7 :=
  length_address h vals

/-- Settles O12: each rule succeeds with an output of the length named, which does not fit. -/
theorem longResultsGiveOutLength : Obligations.LongResultsGiveOutLength := by
  unfold Obligations.LongResultsGiveOutLength
  refine fun s _ hfit => ⟨fun h => ?_, fun hsym h => ?_, fun h => ?_, fun hsym h => ?_, fun hsym h => ?_, fun h => ?_,
    fun hopt h => ?_, fun hopt halpha h => ?_⟩
  · exact exec_of_long (ruleOf_expand hfit) (by simpa using h)
  · exact exec_of_long (ruleOf_charsetMap hfit hsym) (by simpa using h)
  · exact exec_of_long (ruleOf_repack8to5 hfit) (by simpa using h)
  · exact exec_of_long (ruleOf_repack5to8 hfit hsym) (by simpa using h)
  · exact exec_of_long (ruleOf_b32Encode hfit hsym) (by simpa [length_frameResult] using h)
  · refine exec_of_long (ruleOf_segwitEncode hfit) ?_
    simp only [length_frameResult, List.length_cons, length_regionH, length_repack85, length_regionD]
    omega
  · exact exec_of_long (ruleOf_b58Encode hfit hopt) h
  · exact exec_of_long (ruleOf_b58Decode hfit hopt halpha) h

/-! ### LOAD (R103) -/

/-- The lane `i` of a word of four bytes (20_memory.md R60). -/
theorem extractLsb'_leWord (f : Nat → Byte) {i : Nat} (hi : i < 4) :
    (leWord (f 0) (f 1) (f 2) (f 3)).extractLsb' (8 * i) 8 = f i := by
  refine BitVec.eq_of_toNat_eq ?_
  simp only [BitVec.extractLsb'_toNat, leWord_toNat, Nat.shiftRight_eq_div_pow]
  match i, hi with
  | 0, _ | 1, _ | 2, _ | 3, _ => omega

/-- Lane `i` of LOAD's word `j` is byte `4j + i` of the list, 0 beyond its end. -/
theorem extractLsb'_loadWord (bs : List Byte) (j : Nat) {i : Nat} (hi : i < 4) :
    (loadWord bs j).extractLsb' (8 * i) 8 = bs.getD (4 * j + i) 0 :=
  extractLsb'_leWord (fun i => bs.getD (4 * j + i) 0) hi

theorem getElem?_pseudoLOAD (base k : Nat) (bs : List Byte) {j : Nat} (hj : j < (bs.length + 3) / 4) :
    (pseudoLOAD base k bs)[j]? = some (stmtWR base (.inPlus (k + 4 * j)) (.lit (loadWord bs j))) := by
  simp [pseudoLOAD, hj]

/-- With no move ordered and nothing pending, the step is the host's. -/
theorem step_of_idle {s : State} (hidle : s.pending = false) (hturns : s.turns = []) : step s = hostStep s := by
  have hm : s.mover = .host := by simp [State.mover, hturns, hidle]
  have ht : s.takeTurn = s := by rw [State.takeTurn, hturns, List.tail_nil, ← hturns]
  unfold step machineStep
  rw [hm, ht]

/-- The state is a legal, idle block whose host, with no move ordered, is at word `j` of LOAD's expansion. -/
structure State.AtLoad (s : State) (k : Nat) (bs : List Byte) (j : Nat) : Prop where
  legal : s.params.legal = true
  idle : s.pending = false
  turns : s.turns = []
  pos : s.host.pos = j
  prog : s.host.prog = pseudoLOAD s.params.base k bs

/-- Word `j` of LOAD's expansion has been written, and the host is at the next. -/
def State.loadStep (s : State) (k : Nat) (bs : List Byte) (j : Nat) : State :=
  { s with
    inBuf := s.inBuf.writeRun (k + 4 * j) (leBytes (loadWord bs j))
    resp := some (.okay none)
    host := { s.host with pos := s.host.pos + 1 } }

theorem State.AtLoad.loadStep {s : State} {k j : Nat} {bs : List Byte} (h : s.AtLoad k bs j) :
    (s.loadStep k bs j).AtLoad k bs (j + 1) :=
  ⟨h.legal, h.idle, h.turns, congrArg (· + 1) h.pos, h.prog⟩

theorem State.AtLoad.step_eq {s : State} {k j : Nat} {bs : List Byte} (h : s.AtLoad k bs j) (hk : k % 4 = 0)
    (hj : j < (bs.length + 3) / 4) (hin : k + 4 * j < s.params.ibufSize) :
    step s = .next (s.loadStep k bs j) := by
  have hstmt : s.host.prog[s.host.pos]? =
      some (.wr (s.params.base + (0x1000 + (k + 4 * j))) 4 (.lit (loadWord bs j))) := by
    rw [h.prog, h.pos, getElem?_pseudoLOAD _ _ _ hj]
    rfl
  have hsize := (sizes_le_of_legal h.legal).1
  rw [step_of_idle h.idle h.turns, hostStep, hstmt]
  dsimp only
  rw [hostStatement_wr_inside (by omega) (by omega) (by omega) (v := loadWord bs j) rfl,
    Nat.add_sub_cancel_left, State.accessInside, busWrite_inBuf h.legal h.idle hin]
  rfl

/-- From `s` to `t` the `m` words of LOAD from word `j` on have been written to IN_BUF and nothing else of it, and
nothing else changed but the host agent and the port's response. -/
structure State.Loaded (s t : State) (k : Nat) (bs : List Byte) (j m : Nat) : Prop where
  inside : ∀ i, 4 * j ≤ i → i < 4 * (j + m) → t.inBuf.byte (k + i) = bs.getD i 0
  outside : ∀ a, a < k + 4 * j ∨ k + 4 * (j + m) ≤ a → t.inBuf.byte a = s.inBuf.byte a
  frame : t = { s with inBuf := t.inBuf, host := t.host, resp := t.resp }

/-- No word written. -/
theorem State.Loaded.refl (s : State) (k : Nat) (bs : List Byte) (j : Nat) : s.Loaded s k bs j 0 :=
  ⟨fun i _ _ => by omega, fun _ _ => rfl, rfl⟩

/-- The words after word `j`, and word `j` before them, whose bytes they leave. -/
theorem State.Loaded.cons {s t : State} {k j m : Nat} {bs : List Byte}
    (h : (s.loadStep k bs j).Loaded t k bs (j + 1) m) :
    s.Loaded t k bs j (m + 1) := by
  refine ⟨fun i hlo hhi => ?_, fun a ha => ?_, h.frame⟩
  · by_cases hi : 4 * (j + 1) ≤ i
    · exact h.inside i hi (by omega)
    · obtain ⟨l, rfl⟩ : ∃ l, i = 4 * j + l := ⟨i - 4 * j, by omega⟩
      have hl : l < 4 := by omega
      rw [h.outside _ (.inl (by omega)), ← Nat.add_assoc]
      exact (s.inBuf.byte_writeRun_leBytes _ _ hl).trans (extractLsb'_loadWord bs j hl)
  · rw [h.outside a (by omega)]
    exact s.inBuf.byte_writeRun_outside _ _ (show a < k + 4 * j ∨ k + 4 * j + 4 ≤ a by omega)

/-- By induction on the words left: each step writes one and moves the host on. -/
theorem State.AtLoad.run {s : State} {k j m : Nat} {bs : List Byte} (h : s.AtLoad k bs j) (hk : k % 4 = 0)
    (hm : j + m = (bs.length + 3) / 4) (hin : k + 4 * (j + m) ≤ s.params.ibufSize) :
    ∃ t, Host.Core.run Sys2Proof.core m s = .next t ∧ s.Loaded t k bs j m := by
  induction m generalizing s j with
  | zero => exact ⟨s, rfl, .refl s k bs j⟩
  | succ m ih =>
    obtain ⟨t, hrun, ht⟩ := ih (s := s.loadStep k bs j) (j := j + 1) h.loadStep (by omega)
      (show k + 4 * (j + 1 + m) ≤ s.params.ibufSize by omega)
    exact ⟨t, (run_succ_of_next (h.step_eq hk (by omega) (by omega)) m).trans hrun, ht.cons⟩

/-- Settles O60: the host runs the expansion from its first word to its last. -/
theorem loadWritesBytesAndZeroLanes : Obligations.LoadWritesBytesAndZeroLanes := by
  unfold Obligations.LoadWritesBytesAndZeroLanes
  intro s k bs hlegal hidle hturns hpos hprog hk hin
  have hat : s.AtLoad k bs 0 := ⟨hlegal, hidle, hturns, hpos, hprog⟩
  obtain ⟨t, hrun, hbytes, hrest, hframe⟩ := hat.run hk (Nat.zero_add _) (by rwa [Nat.zero_add])
  rw [Nat.zero_add] at hbytes hrest
  exact ⟨t, hrun, fun i hi => hbytes i (Nat.zero_le _) hi, hrest, hframe⟩

end Sys2Proof.Machine
end

section
/-! PROOFS. The checksum codec (40_checksum_codec.md): polystep and its linearity, the verification law, what the seven
commands write, and the values they reject. -/

namespace Sys2Proof.Machine

/-! ### How a successful rule ends its command (30_encoding.md R98, R99) -/

theorem obufSize_ge_of_legal {p : Params} (h : p.legal = true) : 64 ≤ p.obufSize := by
  simp only [Params.legal, legalBufSize, Bool.and_eq_true, decide_eq_true_eq] at h
  omega

theorem State.inFlight.legal {s : State} (h : s.inFlight) : s.params.legal = true := by
  obtain ⟨hinv, -⟩ := h
  obtain ⟨hlegal, -⟩ := s.inv_iff.mp hinv
  exact hlegal

/-- A length register can hold the length of every output that fits OUT_BUF. -/
theorem State.inFlight.obufSize_lt {s : State} (h : s.inFlight) : s.params.obufSize < 2 ^ 16 := by
  obtain ⟨-, hsize⟩ := sizes_le_of_legal h.legal
  omega

/-- A command whose rule succeeds with an output that fits commits the rule's result. -/
theorem exec_commits {i : Instr} {s : State} {r : Result} (h : ruleOf i s = .ok r)
    (hlen : (r.out.getD []).length ≤ s.params.obufSize) :
    exec i s = .next { s.commit r with status := s.status.completed, pending := false } := by
  rw [exec_eq_complete, h, complete_of_ok (fitOutput_ok hlen)]

/-- A run written to OUT_BUF from its first byte is the output. -/
theorem outputIs_of_writeRun {s t : State} {out : List Byte} (hlen : out.length < 2 ^ 16)
    (hdst : t.dstLen = BitVec.ofNat 16 out.length) (hbuf : t.outBuf = s.outBuf.writeRun 0 out) : outputIs s t out := by
  refine ⟨?_, ?_, fun i hi => ?_⟩
  · rw [hdst, BitVec.toNat_ofNat, Nat.mod_eq_of_lt hlen]
  · rw [hbuf, Memory.bytes_writeRun]
  · rw [hbuf, Memory.byte_writeRun_outside _ _ _ (.inr (by omega))]

theorem outputIs.toNat_dstLen {s t : State} {out : List Byte} (h : outputIs s t out) : t.dstLen.toNat = out.length := by
  obtain ⟨hdst, -, -⟩ := h
  exact hdst

theorem outputIs.byte_eq {s t : State} {out : List Byte} (h : outputIs s t out) {i : Nat} (hi : i < out.length) :
    t.outBuf.byte i = out[i] := by
  obtain ⟨-, hbytes, -⟩ := h
  have hget := t.outBuf.getElem_bytes 0 out.length i (by simpa using hi)
  simpa [hbytes] using hget.symm

section
variable {i : Instr} {s : State} (hs : s.inFlight)
include hs

/-- A command whose rule sets CHK alone. -/
theorem exec_of_chk {c : Acc} (h : ruleOf i s = .ok { chk := some c }) :
    ∃ t, exec i s = .next t ∧ succeeded s t ∧ t.chk = c ∧ keepsAllButChk s t :=
  ⟨_, exec_commits h (Nat.zero_le _), ⟨rfl, hs.status_completed⟩, rfl, rfl⟩

/-- A command whose rule gives an output alone. -/
theorem exec_of_out {out : List Byte} (h : ruleOf i s = .ok { out := some out })
    (hlen : out.length ≤ s.params.obufSize) :
    ∃ t, exec i s = .next t ∧ succeeded s t ∧ outputIs s t out ∧ keepsAllButOut s t :=
  ⟨_, exec_commits h hlen, ⟨rfl, hs.status_completed⟩,
    outputIs_of_writeRun (hlen.trans_lt hs.obufSize_lt) rfl rfl, rfl⟩

/-- A command whose rule gives an output, and CHK and CKSUM from a raw polymod (40_checksum_codec.md R132). -/
theorem exec_of_checksumResult {raw : Acc} {out : List Byte} (h : ruleOf i s = .ok (checksumResult raw out))
    (hlen : out.length ≤ s.params.obufSize) :
    ∃ t, exec i s = .next t ∧ succeeded s t ∧ t.chk = raw ∧ t.cksum = raw ^^^ 1 ∧ outputIs s t out ∧
      keepsAllButOutAndChecksum s t :=
  ⟨_, exec_commits h hlen, ⟨rfl, hs.status_completed⟩, rfl, rfl,
    outputIs_of_writeRun (hlen.trans_lt hs.obufSize_lt) rfl rfl, rfl⟩

end

/-! ### Values a rule rejects (R133, 41_bech32_framing.md R163, R165, 42_base58.md R194) -/

theorem whenSymbols_of_bad {d : List Byte} (h : ∃ b ∈ d, 32 ≤ b.toNat) (body : Except CmdError Result) :
    whenSymbols d body = .error .badSymbol := by
  obtain ⟨b, hb, hge⟩ := h
  refine if_neg fun hall => ?_
  have hlt := of_decide_eq_true (List.all_eq_true.mp hall b hb)
  omega

/-- Settles O11: the check of the values comes before the output is made. -/
theorem badValuesGiveBadSymbol : Obligations.BadValuesGiveBadSymbol := by
  unfold Obligations.BadValuesGiveBadSymbol
  refine fun s _ hfit => ⟨fun hbad => ⟨exec_of_error ?_, exec_of_error ?_, exec_of_error ?_⟩,
    fun hopt ⟨c, hc, hbad⟩ => exec_of_error ?_⟩
  · rw [ruleOf, ruleCharsetMap, withRegions_of_fit hfit, whenSymbols_of_bad hbad]
  · rw [ruleOf, ruleRepack5to8, withRegions_of_fit hfit, whenSymbols_of_bad hbad]
  · rw [ruleOf, ruleB32Encode, withRegions_of_fit hfit, whenSymbols_of_bad hbad]
  · have halpha : ¬ allAlpha s.regionD = true := fun hall => hbad ((allAlpha_iff _).mp hall c hc)
    rw [ruleOf, ruleB58Decode, hopt, whenPresent_true, withRegions_of_fit hfit, if_neg halpha]

/-! ### polystep (R120 to R122) -/

/-- The bits that polystep shifts out, c[29:25] (R121). -/
def topBits (c : Acc) : BitVec 5 := c.extractLsb' 25 5

/-- The five turns of the loop of R121. -/
theorem polystep_eq (c : Acc) (v : Byte) :
    polystep c v = (c <<< 5) ^^^ v.setWidth 30 ^^^ genTerm (topBits c) 0 ^^^ genTerm (topBits c) 1 ^^^
      genTerm (topBits c) 2 ^^^ genTerm (topBits c) 3 ^^^ genTerm (topBits c) 4 := rfl

theorem toNat_genTerm_topBits (c : Acc) {i : Nat} (hi : i < 5) :
    (genTerm (topBits c) i).toNat = if c.toNat.testBit (25 + i) then (genConst i).toNat else 0 := by
  have hbit : (topBits c).getLsbD i = c.toNat.testBit (25 + i) := by
    simp only [topBits, BitVec.getLsbD_extractLsb', hi, decide_true, Bool.true_and]
    rfl
  rw [genTerm, hbit]
  split <;> rfl

theorem toNat_shiftLeft_five (c : Acc) : (c <<< 5).toNat = (c.toNat % 2 ^ 25) <<< 5 := by
  rw [BitVec.toNat_shiftLeft, Nat.shiftLeft_eq, Nat.shiftLeft_eq]
  omega

/-- Settles O17: each turn of the loop on numbers. -/
theorem polystepIsTheShiftAndXorOfItsRule : Obligations.PolystepIsTheShiftAndXorOfItsRule := by
  unfold Obligations.PolystepIsTheShiftAndXorOfItsRule
  intro c v
  have hv : (v.setWidth 30).toNat = v.toNat := BitVec.toNat_setWidth_of_le (by decide)
  simp (disch := decide) only [polystep_eq, BitVec.toNat_xor, toNat_shiftLeft_five, hv, toNat_genTerm_topBits]
  rfl

theorem polymodFrom_append (c : Acc) (vs ws : List Byte) :
    polymodFrom c (vs ++ ws) = polymodFrom (polymodFrom c vs) ws :=
  List.foldl_append

/-- Settles O30: the laws of the fold. -/
theorem polymodIsAFold : Obligations.PolymodIsAFold := by
  unfold Obligations.PolymodIsAFold
  exact ⟨fun _ => rfl, fun _ _ _ => rfl, fun _ => rfl, rfl, polymodFrom_append⟩

/-! ### The verification law (R134): polystep is linear over xor -/

theorem topBits_xor (c d : Acc) : topBits (c ^^^ d) = topBits c ^^^ topBits d :=
  BitVec.extractLsb'_xor

theorem genTerm_xor (a b : BitVec 5) (i : Nat) : genTerm (a ^^^ b) i = genTerm a i ^^^ genTerm b i := by
  simp only [genTerm, BitVec.getLsbD_xor]
  cases a.getLsbD i <;> cases b.getLsbD i <;> simp

theorem polystep_xor (c d : Acc) (v w : Byte) : polystep (c ^^^ d) (v ^^^ w) = polystep c v ^^^ polystep d w := by
  simp only [polystep_eq, topBits_xor, genTerm_xor, BitVec.shiftLeft_xor_distrib, BitVec.setWidth_xor]
  ac_rfl

/-- The xor of two sequences of one length, value by value, has the xor of their polymods. -/
theorem polymodFrom_xor (c d : Acc) {vs ws : List Byte} (h : vs.length = ws.length) :
    polymodFrom (c ^^^ d) (vs.zipWith (· ^^^ ·) ws) = polymodFrom c vs ^^^ polymodFrom d ws := by
  induction vs generalizing c d ws with
  | nil =>
    obtain rfl := List.length_eq_zero_iff.mp h.symm
    rfl
  | cons v vs ih =>
    cases ws with
    | nil => nomatch h
    | cons w ws =>
      have hstep := ih (polystep c v) (polystep d w) (Nat.succ.inj h)
      rw [← polystep_xor] at hstep
      exact hstep

/-- While nothing is shifted out, a step appends its value. -/
theorem polystep_of_topBits_zero {c : Acc} (h : topBits c = 0) (v : Byte) :
    polystep c v = (c <<< 5) ^^^ v.setWidth 30 := by
  simp [polystep_eq, h, genTerm]

/-- The 5-bit group of `x` from bit `k` on. -/
def groupAt (x : Acc) (k : Nat) : Byte := (x.extractLsb' k 5).setWidth 8

theorem groups6_eq (x : Acc) :
    groups6 x = [groupAt x 25, groupAt x 20, groupAt x 15, groupAt x 10, groupAt x 5, groupAt x 0] := rfl

/-- A step appends the next group of `x` to the groups above it. -/
theorem polystep_groupAt (x : Acc) (k : Nat) : polystep (x >>> (k + 5)) (groupAt x k) = x >>> k := by
  have htop : topBits (x >>> (k + 5)) = 0 := by
    ext j hj
    have hout : 30 ≤ k + 5 + (25 + j) := by omega
    simp [topBits, BitVec.getElem_extractLsb', BitVec.getLsbD_of_ge x _ hout]
  rw [polystep_of_topBits_zero htop]
  ext j hj
  by_cases hlow : j < 5
  · simp [groupAt, BitVec.getElem_shiftLeft, BitVec.getElem_extractLsb', hlow]
  · have hsum : k + 5 + (j - 5) = k + j := by omega
    simp [groupAt, BitVec.getElem_shiftLeft, hlow, hsum]

/-- The six groups of a value, from 0, give the value back. -/
theorem polymodFrom_groups6 (x : Acc) : polymodFrom 0 (groups6 x) = x := by
  have hzero : (0 : Acc) = x >>> (25 + 5) := (BitVec.ushiftRight_eq_zero (Nat.le_refl 30)).symm
  simp only [groups6_eq, polymodFrom, List.foldl_cons, List.foldl_nil]
  rw [hzero, polystep_groupAt, polystep_groupAt x 20, polystep_groupAt x 15, polystep_groupAt x 10,
    polystep_groupAt x 5, polystep_groupAt x 0, BitVec.ushiftRight_zero]

/-- The six groups of a value xor it into what six zeros would give. -/
theorem polymodFrom_groups6_eq_zeros_xor (c x : Acc) :
    polymodFrom c (groups6 x) = polymodFrom c (List.replicate 6 0) ^^^ x := by
  have hadd := polymodFrom_xor c 0 (vs := List.replicate 6 0) (ws := groups6 x) rfl
  have hzip : (List.replicate 6 (0 : Byte)).zipWith (· ^^^ ·) (groups6 x) = groups6 x := by
    simp [groups6_eq, List.replicate]
  have hc : c ^^^ (0 : Acc) = c := BitVec.xor_zero
  rwa [hzip, hc, polymodFrom_groups6] at hadd

/-- Settles O31: the checksum is the polymod with six zeros in its place, xor 1, so in place of them it leaves 1. -/
theorem checksummedDataVerifies : Obligations.ChecksummedDataVerifies := by
  unfold Obligations.ChecksummedDataVerifies
  intro h d
  calc polymod (expandHrp h ++ d ++ groups6 (checksum30 h d))
      = polymodFrom (polymod (expandHrp h ++ d)) (groups6 (checksum30 h d)) := polymodFrom_append _ _ _
    _ = polymodFrom (polymod (expandHrp h ++ d)) (List.replicate 6 0) ^^^ checksum30 h d :=
        polymodFrom_groups6_eq_zeros_xor _ _
    _ = rawChecksum h d ^^^ (rawChecksum h d ^^^ 1) := by
        rw [polymod, ← polymodFrom_append]
        rfl
    _ = 1 := by rw [← BitVec.xor_assoc, BitVec.xor_self, BitVec.zero_xor]

/-! ### The commands that advance CHK (R127 to R130) -/

/-- Settles O15: the rule sets CHK alone, to 1. -/
theorem polyInitSetsChkToOne : Obligations.PolyInitSetsChkToOne := by
  unfold Obligations.PolyInitSetsChkToOne
  exact fun s hs => exec_of_chk hs rfl

/-- Settles O16: the rule sets CHK alone, to its polystep. -/
theorem polyStepAdvancesChk : Obligations.PolyStepAdvancesChk := by
  unfold Obligations.PolyStepAdvancesChk
  exact fun imm s hs => exec_of_chk hs rfl

section
variable {s : State} (hfit : s.regionsFit = true)
include hfit

theorem ruleOf_polyHrp : ruleOf .polyHrp s = .ok { chk := some (polymodFrom s.chk (expandHrp s.regionH)) } := by
  rw [ruleOf, rulePolyHrp, withRegions_of_fit hfit]

theorem ruleOf_polyData : ruleOf .polyData s = .ok { chk := some (polymodFrom s.chk s.regionD) } := by
  rw [ruleOf, rulePolyData, withRegions_of_fit hfit]

theorem ruleOf_createChecksum : ruleOf .createChecksum s =
    .ok (checksumResult (rawChecksum s.regionH s.regionD) (groups6 (checksum30 s.regionH s.regionD))) := by
  rw [ruleOf, ruleCreateChecksum, withRegions_of_fit hfit]

end

/-- Settles O18: the two rules on regions that fit. -/
theorem polyHrpAndPolyDataFeedTheirRegions : Obligations.PolyHrpAndPolyDataFeedTheirRegions := by
  unfold Obligations.PolyHrpAndPolyDataFeedTheirRegions
  exact fun s hs hfit => ⟨exec_of_chk hs (ruleOf_polyHrp hfit), exec_of_chk hs (ruleOf_polyData hfit)⟩

/-! ### The commands that write OUT_BUF (R131 to R133) -/

theorem toNat_highBits (b : Byte) : (highBits b).toNat = b.toNat / 32 := by
  rw [highBits, BitVec.toNat_ushiftRight, Nat.shiftRight_eq_div_pow]

theorem toNat_lowBits (b : Byte) : (lowBits b).toNat = b.toNat % 32 := by
  rw [lowBits, BitVec.toNat_and]
  exact Nat.and_two_pow_sub_one_eq_mod b.toNat 5

section
variable (h : List Byte) {i : Nat}

theorem getElem_expandHrp_high (hi : i < h.length) :
    (expandHrp h)[i]'(by rw [length_expandHrp]; omega) = highBits h[i] := by
  simp [expandHrp, hi]

theorem getElem_expandHrp_separator :
    (expandHrp h)[h.length]'(by rw [length_expandHrp]; omega) = 0 := by
  simp [expandHrp]

theorem getElem_expandHrp_low (hi : i < h.length) :
    (expandHrp h)[h.length + 1 + i]'(by rw [length_expandHrp]; omega) = lowBits h[i] := by
  simp only [expandHrp]
  rw [List.getElem_append_right (by simp)]
  simp

end

theorem getElem_regionH (s : State) {i : Nat} (hi : i < s.regionH.length) : s.regionH[i] = s.inBuf.byte i := by
  have hget := s.inBuf.getElem_bytes 0 s.hrpLen.toNat i hi
  rwa [Nat.zero_add] at hget

theorem getElem_regionD (s : State) {i : Nat} (hi : i < s.regionD.length) :
    s.regionD[i] = s.inBuf.byte (s.hrpLen.toNat + i) :=
  s.inBuf.getElem_bytes _ _ i hi

/-- Settles O19: the output is the expansion, whose three parts are read off byte by byte. -/
theorem expandWritesTheExpansion : Obligations.ExpandWritesTheExpansion := by
  unfold Obligations.ExpandWritesTheExpansion
  intro s hs hfit hlen
  obtain ⟨t, ht, hsucc, hout, hframe⟩ := exec_of_out hs (ruleOf_expand hfit) (by simpa using hlen)
  have hdst : t.dstLen.toNat = 2 * s.hrpLen.toNat + 1 := by simpa using hout.toNat_dstLen
  refine ⟨t, ht, hsucc, hout, hdst, fun i hi => ?_, ?_, hframe⟩
  · have hiH : i < s.regionH.length := by simpa using hi
    have hhigh := hout.byte_eq (i := i) (by rw [length_expandHrp]; omega)
    have hlow := hout.byte_eq (i := s.regionH.length + 1 + i) (by rw [length_expandHrp]; omega)
    rw [getElem_expandHrp_high _ hiH, getElem_regionH] at hhigh
    rw [getElem_expandHrp_low _ hiH, getElem_regionH, length_regionH] at hlow
    rw [hhigh, hlow]
    exact ⟨toNat_highBits _, toNat_lowBits _⟩
  · have hsep := hout.byte_eq (i := s.regionH.length) (by rw [length_expandHrp]; omega)
    rwa [getElem_expandHrp_separator, length_regionH] at hsep

theorem toNat_getElem_groups6 (x : Acc) {i : Nat} (hi : i < (groups6 x).length) :
    (groups6 x)[i].toNat = (x.toNat >>> (5 * (5 - i))) % 32 := by
  simp only [groups6, List.getElem_map, List.getElem_range]
  rw [BitVec.toNat_setWidth_of_le (by decide), BitVec.extractLsb'_toNat]

/-- Settles O20: the rule's result, and its output byte by byte. -/
theorem createChecksumWritesTheSixSymbols : Obligations.CreateChecksumWritesTheSixSymbols := by
  unfold Obligations.CreateChecksumWritesTheSixSymbols
  intro s hs hfit
  have hlen : (groups6 (checksum30 s.regionH s.regionD)).length ≤ s.params.obufSize :=
    Nat.le_trans (by rw [length_groups6]; decide) (obufSize_ge_of_legal hs.legal)
  obtain ⟨t, ht, hsucc, hchk, hcksum, hout, hframe⟩ := exec_of_checksumResult hs (ruleOf_createChecksum hfit) hlen
  have hsum : checksum30 s.regionH s.regionD = t.cksum := hcksum.symm
  rw [hsum] at hout
  have hdst : t.dstLen = 6 := BitVec.eq_of_toNat_eq hout.toNat_dstLen
  refine ⟨t, ht, hsucc, hchk, by rw [hcksum, hchk], hout, hdst, fun i hi => ?_, hframe⟩
  rw [hout.byte_eq hi]
  exact toNat_getElem_groups6 t.cksum hi

/-- The 32 characters of R126, in order. -/
theorem toNat_charsetByte {v : Byte} (hv : v.toNat < 32) :
    (charsetByte v).toNat = (bech32Chars.getD v.toNat ' ').toNat := by
  have hchars : charset.map BitVec.toNat = bech32Chars.map Char.toNat := by decide
  have hget := congrArg (·[v.toNat]?) hchars
  rw [charsetByte, List.getD_eq_getElem _ _ (show v.toNat < charset.length from hv),
    List.getD_eq_getElem _ _ (show v.toNat < bech32Chars.length from hv)]
  simpa [show v.toNat < charset.length from hv, show v.toNat < bech32Chars.length from hv] using hget

/-- Settles O21: the output is D through CHARSET, whose characters are R126's. -/
theorem charsetMapMapsTheData : Obligations.CharsetMapMapsTheData := by
  unfold Obligations.CharsetMapMapsTheData
  refine ⟨fun v => toNat_charsetByte, fun s hs hfit hsym hlen => ?_⟩
  obtain ⟨t, ht, hsucc, hout, hframe⟩ := exec_of_out hs (ruleOf_charsetMap hfit hsym) (by simpa using hlen)
  have hdst : t.dstLen = s.srcLen := BitVec.eq_of_toNat_eq (by simpa using hout.toNat_dstLen)
  refine ⟨t, ht, hsucc, hout, hdst, fun i hi => ?_, hframe⟩
  have hiD : i < s.regionD.length := by simpa using hi
  rw [hout.byte_eq (by simpa using hi), List.getElem_map, toNat_charsetByte (hsym _ (List.getElem_mem hiD)),
    getElem_regionD]

end Sys2Proof.Machine
end

section
/-! PROOFS. Bech32 framing (41_bech32_framing.md): the re-packing loop keeps the number its bits denote (R160, R161), so
the re-packings undo each other (R167); what the four commands write (R162 to R166), and SEGWIT_ENCODE as B32_ENCODE
(R168). -/

namespace Sys2Proof.Machine

/-! ### The number of a sequence of groups -/

/-- A positional sum of a statement is Mathlib's number of the digits, taken from the least significant. -/
theorem positionalSum_eq_ofDigits (f : Byte → Nat) (base : Nat) (v : List Byte) :
    ∑ i ∈ Finset.range v.length, f (v.getD i 0) * base ^ (v.length - 1 - i) =
      Nat.ofDigits base (v.map f).reverse := by
  induction v with
  | nil => rfl
  | cons x xs ih =>
    rw [List.length_cons, Finset.sum_range_succ', List.map_cons, Nat.ofDigits_reverse_cons, ← ih, List.length_map]
    simp [Nat.sub_sub, Nat.add_comm 1, Nat.mul_comm]

/-- The number of a sequence of groups of `w` bits, the first most significant. -/
def bitsValue (w : Nat) (v : List Byte) : Nat := Nat.ofDigits (2 ^ w) (v.map BitVec.toNat).reverse

theorem bytesValue_eq (b : List Byte) : bytesValue b = bitsValue 8 b := positionalSum_eq_ofDigits _ _ _

theorem groupsValue_eq (v : List Byte) : groupsValue v = bitsValue 5 v := positionalSum_eq_ofDigits _ _ _

@[simp] theorem bitsValue_nil (w : Nat) : bitsValue w [] = 0 := rfl

theorem bitsValue_singleton (w : Nat) (x : Byte) : bitsValue w [x] = x.toNat := Nat.ofDigits_singleton

theorem bitsValue_cons (w : Nat) (x : Byte) (xs : List Byte) :
    bitsValue w (x :: xs) = x.toNat * 2 ^ (w * xs.length) + bitsValue w xs := by
  rw [bitsValue, List.map_cons, Nat.ofDigits_reverse_cons, List.length_map, ← Nat.pow_mul, Nat.add_comm, Nat.mul_comm,
    bitsValue]

theorem bitsValue_append (w : Nat) (u v : List Byte) :
    bitsValue w (u ++ v) = bitsValue w u * 2 ^ (w * v.length) + bitsValue w v := by
  rw [bitsValue, List.map_append, List.reverse_append, Nat.ofDigits_append, List.length_reverse, List.length_map,
    ← Nat.pow_mul, Nat.add_comm, Nat.mul_comm, bitsValue, bitsValue]

/-- A group is read off its sequence's number: a shift drops the groups after it, a remainder those before it. -/
theorem toNat_getElem_eq_bitsValue {w : Nat} {v : List Byte} (hv : ∀ x ∈ v, x.toNat < 2 ^ w) {i : Nat}
    (hi : i < v.length) : v[i].toNat = bitsValue w v / 2 ^ (w * (v.length - 1 - i)) % 2 ^ w := by
  have hdigits : ∀ d ∈ (v.map BitVec.toNat).reverse, d < 2 ^ w := by simpa using hv
  have hdrop : (v.map BitVec.toNat).reverse.drop (v.length - 1 - i) = ((v.take (i + 1)).map BitVec.toNat).reverse := by
    rw [List.drop_reverse, List.length_map, List.map_take]
    congr 2
    omega
  rw [bitsValue, Nat.pow_mul, Nat.ofDigits_div_pow_eq_ofDigits_drop _ (Nat.two_pow_pos w) _ hdigits, hdrop,
    List.take_succ_eq_append_getElem hi, List.map_append, List.reverse_append, List.map_singleton,
    List.reverse_singleton, List.singleton_append, Nat.ofDigits_cons, Nat.add_mul_mod_self_left,
    Nat.mod_eq_of_lt (hv _ (List.getElem_mem hi))]

/-- Sequences of as many groups with the same number are the same. -/
theorem eq_of_bitsValue_eq {w : Nat} {u v : List Byte} (hlen : u.length = v.length) (hu : ∀ x ∈ u, x.toNat < 2 ^ w)
    (hv : ∀ x ∈ v, x.toNat < 2 ^ w) (h : bitsValue w u = bitsValue w v) : u = v := by
  refine List.ext_getElem hlen fun i hiu hiv => BitVec.eq_of_toNat_eq ?_
  rw [toNat_getElem_eq_bitsValue hu hiu, toNat_getElem_eq_bitsValue hv hiv, h, hlen]

theorem bytes_lt (b : List Byte) : ∀ x ∈ b, x.toNat < 2 ^ 8 := fun x _ => x.isLt

/-! ### What the loops of R160 and R161 keep -/

/-- The `bits` unread bits of `acc` split into the first group of `w` and the rest. -/
theorem unread_eq_group (acc : Nat) {w bits : Nat} (h : w ≤ bits) :
    acc % 2 ^ bits = acc >>> (bits - w) % 2 ^ w * 2 ^ (bits - w) + acc % 2 ^ (bits - w) := by
  have hsplit : 2 ^ bits = 2 ^ (bits - w) * 2 ^ w := by rw [← Nat.pow_add, Nat.sub_add_cancel h]
  rw [hsplit, Nat.mod_mul, Nat.shiftRight_eq_div_pow, Nat.mul_comm, Nat.add_comm]

/-- Behind the unread bits of `acc`, a shift and an OR put those of the next group. -/
theorem unread_shiftLeft_or (acc bits : Nat) {inW x : Nat} (hx : x < 2 ^ inW) :
    (acc <<< inW ||| x) % 2 ^ (bits + inW) = acc % 2 ^ bits * 2 ^ inW + x := by
  rw [← Nat.shiftLeft_add_eq_or_of_lt hx, Nat.shiftLeft_eq, Nat.add_comm bits, Nat.pow_add, Nat.mod_mul,
    Nat.mul_comm acc, Nat.mul_add_mod_self_left, Nat.mod_eq_of_lt hx, Nat.mul_add_div (Nat.two_pow_pos inW),
    Nat.div_eq_of_lt hx, Nat.add_zero, Nat.add_comm, Nat.mul_comm]

/-- A byte holds any group of the two widths. -/
theorem toNat_group {w : Nat} (hw : w ≤ 8) (n : Nat) : (BitVec.ofNat 8 (n % 2 ^ w)).toNat = n % 2 ^ w := by
  rw [BitVec.toNat_ofNat, Nat.mod_eq_of_lt]
  exact (Nat.mod_lt _ (Nat.two_pow_pos w)).trans_le (Nat.pow_le_pow_right (by decide) hw)

/-- The groups taken off are values of `w` bits. -/
theorem emitGroups_lt {w : Nat} (hw : w ≤ 8) (acc fuel bits : Nat) :
    ∀ x ∈ (emitGroups w acc fuel bits).1, x.toNat < 2 ^ w := by
  induction fuel generalizing bits with
  | zero => simp [emitGroups]
  | succ fuel ih =>
    by_cases hle : w ≤ bits
    · simp only [emitGroups, if_pos hle, List.forall_mem_cons, toNat_group hw]
      exact ⟨Nat.mod_lt _ (Nat.two_pow_pos w), ih _⟩
    · simp [emitGroups, hle]

theorem repackLoop_lt (inW : Nat) {outW : Nat} (hw : outW ≤ 8) (xs : List Byte) (acc bits : Nat) :
    ∀ x ∈ (repackLoop inW outW xs acc bits).1, x.toNat < 2 ^ outW := by
  induction xs generalizing acc bits with
  | nil => simp [repackLoop]
  | cons x xs ih =>
    simp only [repackLoop, List.forall_mem_append]
    exact ⟨emitGroups_lt hw _ _ _, ih _ _⟩

section
variable {outW : Nat} (hpos : 0 < outW) (hw : outW ≤ 8)
include hpos

/-- No bit is lost or made: each unread one is in a group or stays unread. -/
theorem emitGroups_bits (acc : Nat) {fuel bits : Nat} (h : bits ≤ fuel) :
    outW * (emitGroups outW acc fuel bits).1.length + (emitGroups outW acc fuel bits).2 = bits := by
  obtain ⟨hlen, hrest⟩ := emitGroups_lengths hpos acc h
  rw [hlen, hrest, Nat.div_add_mod]

theorem repackLoop_bits (inW : Nat) (xs : List Byte) (acc : Nat) {bits : Nat} (h : bits < outW) :
    outW * (repackLoop inW outW xs acc bits).1.length + (repackLoop inW outW xs acc bits).2.2 =
      bits + inW * xs.length := by
  obtain ⟨hlen, hrest⟩ := repackLoop_lengths inW hpos xs acc bits h
  rw [hlen, hrest, Nat.div_add_mod]

include hw

/-- The inner loop: the groups taken off, and behind them the bits left unread, are the unread bits. -/
theorem emitGroups_value (acc : Nat) {fuel bits : Nat} (h : bits ≤ fuel) :
    bitsValue outW (emitGroups outW acc fuel bits).1 * 2 ^ (emitGroups outW acc fuel bits).2 +
        acc % 2 ^ (emitGroups outW acc fuel bits).2 = acc % 2 ^ bits := by
  induction fuel generalizing bits with
  | zero =>
    obtain rfl : bits = 0 := by omega
    simp [emitGroups]
  | succ fuel ih =>
    by_cases hle : outW ≤ bits
    · have hfuel : bits - outW ≤ fuel := by omega
      simp only [emitGroups, if_pos hle, bitsValue_cons, toNat_group hw]
      rw [Nat.add_mul, Nat.mul_assoc, ← Nat.pow_add, emitGroups_bits hpos acc hfuel, Nat.add_assoc, ih hfuel,
        unread_eq_group acc hle]
    · simp [emitGroups, hle]

/-- The outer loop: the groups produced, and behind them the bits left unread, are the bits unread before, and behind
them the groups read. -/
theorem repackLoop_value {inW : Nat} {xs : List Byte} (hxs : ∀ x ∈ xs, x.toNat < 2 ^ inW) (acc : Nat) {bits : Nat}
    (h : bits < outW) :
    bitsValue outW (repackLoop inW outW xs acc bits).1 * 2 ^ (repackLoop inW outW xs acc bits).2.2 +
        (repackLoop inW outW xs acc bits).2.1 % 2 ^ (repackLoop inW outW xs acc bits).2.2 =
      acc % 2 ^ bits * 2 ^ (inW * xs.length) + bitsValue inW xs := by
  induction xs generalizing acc bits with
  | nil => simp [repackLoop]
  | cons x xs ih =>
    obtain ⟨hx, hxs⟩ := List.forall_mem_cons.mp hxs
    have hread := unread_shiftLeft_or acc bits hx
    simp only [repackLoop]
    generalize acc <<< inW ||| x.toNat = acc' at hread ⊢
    have hemit := emitGroups_value hpos hw acc' (Nat.le_refl (bits + inW))
    have hrest : (emitGroups outW acc' (bits + inW) (bits + inW)).2 < outW := by
      obtain ⟨-, hmod⟩ := emitGroups_lengths hpos acc' (Nat.le_refl (bits + inW))
      exact hmod ▸ Nat.mod_lt _ hpos
    generalize emitGroups outW acc' (bits + inW) (bits + inW) = e at hemit hrest ⊢
    have hloop := ih hxs acc' hrest
    have hbits := repackLoop_bits hpos inW xs acc' hrest
    generalize repackLoop inW outW xs acc' e.2 = r at hloop hbits ⊢
    calc bitsValue outW (e.1 ++ r.1) * 2 ^ r.2.2 + r.2.1 % 2 ^ r.2.2
        = bitsValue outW e.1 * 2 ^ (outW * r.1.length + r.2.2) +
            (bitsValue outW r.1 * 2 ^ r.2.2 + r.2.1 % 2 ^ r.2.2) := by rw [bitsValue_append, Nat.pow_add]; ring
      _ = (bitsValue outW e.1 * 2 ^ e.2 + acc' % 2 ^ e.2) * 2 ^ (inW * xs.length) + bitsValue inW xs := by
        rw [hbits, hloop, Nat.pow_add]; ring
      _ = acc % 2 ^ bits * 2 ^ (inW * (xs.length + 1)) + (x.toNat * 2 ^ (inW * xs.length) + bitsValue inW xs) := by
        rw [hemit, hread, Nat.mul_succ, Nat.pow_add]; ring
      _ = _ := by rw [bitsValue_cons, List.length_cons]

end

/-! ### What the re-packings give (R160, R161) -/

/-- The zero-padding of the last group: the `bits` unread bits of `acc`, at the top of five. -/
theorem padded_eq (acc : Nat) {bits : Nat} (h : bits ≤ 5) :
    acc <<< (5 - bits) % 2 ^ 5 = acc % 2 ^ bits * 2 ^ (5 - bits) := by
  have hsplit : 2 ^ 5 = 2 ^ bits * 2 ^ (5 - bits) := by rw [← Nat.pow_add, Nat.add_sub_cancel' h]
  rw [Nat.shiftLeft_eq, hsplit, Nat.mul_mod_mul_right]

theorem repack85_lt (b : List Byte) : ∀ v ∈ repack85 b, v.toNat < 2 ^ 5 := by
  have hloop := repackLoop_lt 8 (by decide : 5 ≤ 8) b 0 0
  simp only [repack85]
  split
  · rw [List.forall_mem_append, List.forall_mem_singleton, toNat_group (by decide)]
    exact ⟨hloop, Nat.mod_lt _ (by decide)⟩
  · exact hloop

/-- The groups of `repack85` are the bits of `b`, and behind them the zeros that fill the last group. -/
theorem bitsValue_repack85 (b : List Byte) :
    bitsValue 5 (repack85 b) = bitsValue 8 b * 2 ^ (5 * ((8 * b.length + 4) / 5) - 8 * b.length) := by
  obtain ⟨-, hrest⟩ := repackLoop_lengths 8 (by decide : 0 < 5) b 0 0 (by decide)
  have hvalue := repackLoop_value (by decide : 0 < 5) (by decide) (bytes_lt b) 0 (bits := 0) (by decide)
  simp only [repack85]
  generalize repackLoop 8 5 b 0 0 = r at hrest hvalue ⊢
  rw [Nat.zero_mod, Nat.zero_mul, Nat.zero_add] at hvalue
  split
  case isTrue hunread =>
    have hpad : 5 * ((8 * b.length + 4) / 5) - 8 * b.length = 5 - r.2.2 := by omega
    have hfive : 2 ^ (5 * 1) = 2 ^ r.2.2 * 2 ^ (5 - r.2.2) := by
      rw [← Nat.pow_add, Nat.add_sub_cancel' (by omega), Nat.mul_one]
    rw [bitsValue_append, bitsValue_singleton, toNat_group (by decide), padded_eq _ (by omega), List.length_singleton,
      hfive, hpad, ← hvalue, Nat.add_mul, Nat.mul_assoc]
  case isFalse hunread =>
    have hnone : r.2.2 = 0 := by omega
    have hpad : 5 * ((8 * b.length + 4) / 5) - 8 * b.length = 0 := by omega
    simpa [hnone, hpad, Nat.mod_one] using hvalue

/-- The bytes of `repack58` are the bits of `v` but the last ones that fill no byte. -/
theorem bitsValue_repack58 {v : List Byte} (hv : ∀ x ∈ v, x.toNat < 2 ^ 5) :
    bitsValue 8 (repack58 v) = bitsValue 5 v / 2 ^ (5 * v.length % 8) := by
  obtain ⟨-, hrest⟩ := repackLoop_lengths 5 (by decide : 0 < 8) v 0 0 (by decide)
  have hvalue := repackLoop_value (by decide : 0 < 8) (by decide) hv 0 (bits := 0) (by decide)
  rw [Nat.zero_add] at hrest
  rw [Nat.zero_mod, Nat.zero_mul, Nat.zero_add, hrest] at hvalue
  rw [repack58, ← hvalue, Nat.mul_comm, Nat.mul_add_div (Nat.two_pow_pos _),
    Nat.div_eq_of_lt (Nat.mod_lt _ (Nat.two_pow_pos _)), Nat.add_zero]

/-! ### The re-packings undo each other (R167) -/

theorem repack58_repack85 (b : List Byte) : repack58 (repack85 b) = b := by
  refine eq_of_bitsValue_eq ?_ (bytes_lt _) (bytes_lt _) ?_
  · rw [length_repack58, length_repack85]
    omega
  · have hpad : 5 * ((8 * b.length + 4) / 5) % 8 = 5 * ((8 * b.length + 4) / 5) - 8 * b.length := by omega
    rw [bitsValue_repack58 (repack85_lt b), bitsValue_repack85, length_repack85, hpad,
      Nat.mul_div_cancel _ (Nat.two_pow_pos _)]

/-- Dropping the lowest `q` bits of a number and clearing the next `p` clears, in a group of `w` bits at bit `j` of what
is left, the bits below bit `p` (R167). -/
theorem group_of_cleared (n q p j w : Nat) :
    n / 2 ^ (q + p) * 2 ^ p / 2 ^ j % 2 ^ w = n / 2 ^ (q + j) % 2 ^ w / 2 ^ (p - j) * 2 ^ (p - j) := by
  refine Nat.eq_of_testBit_eq fun i => ?_
  simp only [Nat.testBit_mod_two_pow, Nat.testBit_div_two_pow, Nat.testBit_mul_two_pow]
  by_cases hkept : p - j ≤ i
  · have hbit : i + j - p + (q + p) = i + (q + j) := by omega
    simp [hkept, hbit, Nat.sub_add_cancel hkept, show p ≤ i + j by omega]
  · simp [hkept, show ¬ p ≤ i + j by omega]

theorem repack85_repack58_group {v : List Byte} (hv : ∀ x ∈ v, x.toNat < 2 ^ 5) {i : Nat}
    (hi : i < (8 * (5 * v.length / 8) + 4) / 5) :
    ((repack85 (repack58 v)).getD i 0).toNat = (v.getD i 0).toNat / 2 ^ (5 * (i + 1) - 8 * (5 * v.length / 8)) *
      2 ^ (5 * (i + 1) - 8 * (5 * v.length / 8)) := by
  have hout : i < (repack85 (repack58 v)).length := by rwa [length_repack85, length_repack58]
  have hin : i < v.length := by omega
  rw [List.getD_eq_getElem _ _ hout, List.getD_eq_getElem _ _ hin, toNat_getElem_eq_bitsValue (repack85_lt _) hout,
    toNat_getElem_eq_bitsValue hv hin, bitsValue_repack85, bitsValue_repack58 hv, length_repack85, length_repack58]
  generalize hm : 5 * v.length / 8 = m at *
  have hrest : 5 * v.length % 8 = 5 * (v.length - (8 * m + 4) / 5) + (5 * ((8 * m + 4) / 5) - 8 * m) := by omega
  have hdropped : 5 * (v.length - (8 * m + 4) / 5) + 5 * ((8 * m + 4) / 5 - 1 - i) = 5 * (v.length - 1 - i) := by omega
  have hcleared : 5 * ((8 * m + 4) / 5) - 8 * m - 5 * ((8 * m + 4) / 5 - 1 - i) = 5 * (i + 1) - 8 * m := by omega
  rw [hrest, group_of_cleared, hdropped, hcleared]

theorem repack85_repack58 {v : List Byte} (hv : ∀ x ∈ v, x.toNat < 2 ^ 5) (h : 5 * v.length % 8 = 0) :
    repack85 (repack58 v) = v := by
  refine eq_of_bitsValue_eq ?_ (repack85_lt _) hv ?_
  · rw [length_repack85, length_repack58]
    omega
  · have hpad : 5 * ((8 * (5 * v.length / 8) + 4) / 5) - 8 * (5 * v.length / 8) = 0 := by omega
    rw [bitsValue_repack85, bitsValue_repack58 hv, length_repack58, h, hpad, Nat.pow_zero, Nat.div_one, Nat.mul_one]

/-- Settles O32: both directions from the numbers the re-packings keep. -/
theorem repackRoundTrips : Obligations.RepackRoundTrips := by
  unfold Obligations.RepackRoundTrips
  refine ⟨fun b => ⟨repack58_repack85 b, repack85_lt b⟩, fun v hv => ⟨repack85_repack58 hv, ?_, fun i hi => ?_⟩⟩
  · rw [length_repack85, length_repack58]
  · exact repack85_repack58_group hv hi

/-! ### What the four commands write (R162 to R166, R168) -/

/-- Settles O22: the rule's output, and the number its groups denote. -/
theorem repack8to5WritesTheGroups : Obligations.Repack8to5WritesTheGroups := by
  unfold Obligations.Repack8to5WritesTheGroups
  intro s hs hfit hlen
  obtain ⟨t, ht, hsucc, hout, hframe⟩ := exec_of_out hs (ruleOf_repack8to5 hfit) (by simpa using hlen)
  have hvalue := bitsValue_repack85 s.regionD
  rw [← groupsValue_eq, ← bytesValue_eq, length_regionD] at hvalue
  exact ⟨t, ht, hsucc, hout, by simpa using hout.toNat_dstLen, repack85_lt _, hvalue, hframe⟩

/-- Settles O23: the rule's output, and the number its bytes denote. -/
theorem repack5to8WritesTheBytes : Obligations.Repack5to8WritesTheBytes := by
  unfold Obligations.Repack5to8WritesTheBytes
  intro s hs hfit hsym hlen
  obtain ⟨t, ht, hsucc, hout, hframe⟩ := exec_of_out hs (ruleOf_repack5to8 hfit hsym) (by simpa using hlen)
  have hvalue := bitsValue_repack58 hsym
  rw [← groupsValue_eq, ← bytesValue_eq, length_regionD] at hvalue
  exact ⟨t, ht, hsucc, hout, by simpa using hout.toNat_dstLen, hvalue, hframe⟩

/-- A command whose rule frames `vals` writes their address, CHK and CKSUM (R164, R165). -/
theorem exec_of_frameResult {i : Instr} {s : State} (hs : s.inFlight) {h vals : List Byte}
    (hrule : ruleOf i s = .ok (frameResult h vals)) (hlen : h.length + vals.length + 7 ≤ s.params.obufSize) :
    ∃ t, exec i s = .next t ∧ succeeded s t ∧ t.chk = polymod (expandHrp h ++ vals ++ [0, 0, 0, 0, 0, 0]) ∧
      t.cksum = t.chk ^^^ 1 ∧ outputIs s t (h ++ [0x31] ++ (vals ++ groups6 t.cksum).map charsetByte) ∧
      t.dstLen.toNat = h.length + vals.length + 7 ∧ keepsAllButOutAndChecksum s t := by
  obtain ⟨t, ht, hsucc, hchk, hcksum, hout, hframe⟩ := exec_of_checksumResult hs hrule (by rwa [length_address])
  have hsum : checksum30 h vals = t.cksum := hcksum.symm
  have hdst : t.dstLen.toNat = h.length + vals.length + 7 := by simpa using hout.toNat_dstLen
  rw [address, hsum] at hout
  exact ⟨t, ht, hsucc, hchk, by rw [hcksum, hchk], hout, hdst, hframe⟩

/-- Settles O24: the rule frames D under H. -/
theorem b32EncodeWritesTheString : Obligations.B32EncodeWritesTheString := by
  unfold Obligations.B32EncodeWritesTheString
  intro s hs hfit hsym hlen
  obtain ⟨t, ht, hsucc, hchk, hcksum, hout, hdst, hframe⟩ :=
    exec_of_frameResult hs (ruleOf_b32Encode hfit hsym) (by simp only [length_regionH, length_regionD]; omega)
  simp only [length_regionH, length_regionD] at hdst
  exact ⟨t, ht, hsucc, hchk, hcksum, hout, by omega, hframe⟩

/-- Settles O25: the rule frames the version 0 and the re-packed D under H. -/
theorem segwitEncodeWritesTheAddress : Obligations.SegwitEncodeWritesTheAddress := by
  unfold Obligations.SegwitEncodeWritesTheAddress
  intro s hs hfit hlen
  have hvals : (0 :: repack85 s.regionD).length = (8 * s.srcLen.toNat + 4) / 5 + 1 := by simp
  obtain ⟨t, ht, hsucc, hchk, hcksum, hout, hdst, hframe⟩ :=
    exec_of_frameResult hs (ruleOf_segwitEncode hfit) (by rw [length_regionH, hvals]; omega)
  rw [length_regionH, hvals] at hdst
  exact ⟨t, ht, hsucc, hchk, hcksum, hout, by omega, hframe⟩

/-- Settles O33: the two rules give the same result, and its completion turns the same earlier results and the same
outcome into the same ones. -/
theorem segwitIsB32OfTheRepackedProgram : Obligations.SegwitIsB32OfTheRepackedProgram := by
  unfold Obligations.SegwitIsB32OfTheRepackedProgram
  intro s u hs hu hfits hfitu hp hH hD hbuf hdst hchk hcksum
  have hsym : u.dataIsSymbols := by
    rw [State.dataIsSymbols, hD, List.forall_mem_cons]
    exact ⟨by decide, repack85_lt _⟩
  have hrule : ruleOf .b32Encode u = ruleOf .segwitEncode s := by
    rw [ruleOf_b32Encode hfitu hsym, ruleOf_segwitEncode hfits, hH, hD]
  have hres : s.SameResults u := ⟨hbuf, hdst, hchk, hcksum⟩
  obtain ⟨ho, hd, hc, hk⟩ := hres.complete hp (ruleOf .segwitEncode s)
  obtain ⟨-, herr, hcode⟩ := (hs.sameOutcome hu).complete hp (ruleOf .segwitEncode s)
  exact ⟨_, _, exec_eq_complete _ s, (exec_eq_complete _ u).trans (by rw [hrule]), ho, hd, hc, hk, herr, hcode⟩

end Sys2Proof.Machine
end

section
/-! PROOFS. The Base58 radix codec (42_base58.md): an encoding and a decoding are numerals of one number in two radices,
with as many leading zero digits as their operand has, so they undo each other (R195, R196); what the two commands write
(R192, R194). -/

namespace Sys2Proof.Machine

/-! ### Leading characters -/

@[simp] theorem leadingCount_cons_self (x : Byte) (v : List Byte) : leadingCount x (x :: v) = leadingCount x v + 1 := by
  simp [leadingCount]

theorem leadingCount_cons_of_ne {x c : Byte} (h : c ≠ x) (v : List Byte) : leadingCount x (c :: v) = 0 := by
  simp [leadingCount, h]

theorem leadingCount_eq_zero_iff (x : Byte) (v : List Byte) : leadingCount x v = 0 ↔ v.head? ≠ some x := by
  cases v with
  | nil => simp [leadingCount]
  | cons c v =>
    by_cases h : c = x
    · simp [h]
    · simp [leadingCount_cons_of_ne h, h]

theorem leadingCount_replicate_append (x : Byte) (z : Nat) (v : List Byte) :
    leadingCount x (List.replicate z x ++ v) = z + leadingCount x v := by
  induction z with
  | zero => simp
  | succ z ih => rw [List.replicate_succ, List.cons_append, leadingCount_cons_self, ih, Nat.add_right_comm]

/-! ### Numerals in a radix -/

theorem map_map_of_leftInverse {α β : Type*} {f : α → β} {g : β → α} {l : List α} (h : ∀ x ∈ l, g (f x) = x) :
    (l.map f).map g = l := by
  rw [List.map_map]
  exact (List.map_congr_left h).trans (List.map_id l)

/-- A radix with a character for each digit below it, from which the digit is read back. -/
structure RadixCode where
  /-- The base of the numerals. -/
  radix : Nat
  /-- The character of a digit. -/
  char : Nat → Byte
  /-- The digit of a character. -/
  digit : Byte → Nat
  one_lt_radix : 1 < radix
  digit_char : ∀ d < radix, digit (char d) = d

namespace RadixCode
variable (R : RadixCode)

/-- The byte is the character of a digit. -/
def IsChar (c : Byte) : Prop := ∃ d < R.radix, R.char d = c

/-- The number of a character sequence, the first digit most significant. -/
def value (v : List Byte) : Nat := Nat.ofDigits R.radix (v.map R.digit).reverse

/-- The numeral of `n` without a leading zero digit, most significant digit first (empty for 0). -/
def minimal (n : Nat) : List Byte := ((Nat.digits R.radix n).map R.char).reverse

/-- The numeral of `n` behind `z` leading zero digits. -/
def numeral (z n : Nat) : List Byte := List.replicate z (R.char 0) ++ R.minimal n

theorem radix_pos : 0 < R.radix := Nat.zero_lt_of_lt R.one_lt_radix

@[simp] theorem digit_char_zero : R.digit (R.char 0) = 0 := R.digit_char 0 R.radix_pos

variable {R}

theorem IsChar.digit_lt {c : Byte} (h : R.IsChar c) : R.digit c < R.radix := by
  obtain ⟨d, hd, rfl⟩ := h
  rwa [R.digit_char d hd]

theorem IsChar.char_digit {c : Byte} (h : R.IsChar c) : R.char (R.digit c) = c := by
  obtain ⟨d, hd, rfl⟩ := h
  rw [R.digit_char d hd]

theorem digit_lt_of_mem {v : List Byte} (hv : ∀ c ∈ v, R.IsChar c) : ∀ d ∈ (v.map R.digit).reverse, d < R.radix := by
  simpa using fun c hc => (hv c hc).digit_lt

theorem value_lt {v : List Byte} (hv : ∀ c ∈ v, R.IsChar c) : R.value v < R.radix ^ v.length := by
  have hlt := Nat.ofDigits_lt_base_pow_length R.one_lt_radix (l := (v.map R.digit).reverse)
    (digit_lt_of_mem hv)
  simpa [value] using hlt

variable (R)

/-- A positional sum evaluated from the left, as the model does. -/
theorem foldl_eq_value (v : List Byte) : v.foldl (fun n c => n * R.radix + R.digit c) 0 = R.value v := by
  rw [value, Nat.ofDigits_eq_foldr, List.foldr_reverse, List.foldl_map]
  simp only [Nat.cast_id, Nat.add_comm, Nat.mul_comm]

theorem value_cons_char_zero (v : List Byte) : R.value (R.char 0 :: v) = R.value v := by
  rw [value, List.map_cons, List.reverse_cons, digit_char_zero, Nat.ofDigits_append_zero, value]

theorem numeral_succ (z n : Nat) : R.numeral (z + 1) n = R.char 0 :: R.numeral z n := rfl

/-- The model's loop gives the digits of `n` when it may run for as many turns. -/
theorem digitsBE_eq {fuel n : Nat} (h : n < R.radix ^ fuel) (acc : List Nat) :
    digitsBE R.radix fuel n acc = (Nat.digits R.radix n).reverse ++ acc := by
  induction fuel generalizing n acc with
  | zero =>
    obtain rfl : n = 0 := by simpa using h
    simp [digitsBE]
  | succ fuel ih =>
    by_cases hn : n = 0
    · simp [digitsBE, hn]
    · have hdiv : n / R.radix < R.radix ^ fuel := Nat.div_lt_of_lt_mul (by rwa [← Nat.pow_succ'])
      rw [digitsBE, if_neg hn, ih hdiv, Nat.digits_def' R.one_lt_radix (Nat.pos_of_ne_zero hn), List.reverse_cons,
        List.append_assoc, List.singleton_append]

theorem map_char_digitsBE {fuel n : Nat} (h : n < R.radix ^ fuel) :
    (digitsBE R.radix fuel n []).map R.char = R.minimal n := by
  rw [R.digitsBE_eq h, List.append_nil, List.map_reverse, minimal]

/-! A numeral has its number, its leading zeros and no other, and is the only one that has them. -/

theorem isChar_of_mem_numeral {z n : Nat} : ∀ c ∈ R.numeral z n, R.IsChar c := by
  intro c hc
  simp only [numeral, minimal, List.mem_append, List.mem_replicate, List.mem_reverse, List.mem_map] at hc
  obtain ⟨-, rfl⟩ | ⟨d, hd, rfl⟩ := hc
  · exact ⟨0, R.radix_pos, rfl⟩
  · exact ⟨d, Nat.digits_lt_base R.one_lt_radix hd, rfl⟩

theorem map_digit_minimal (n : Nat) : (R.minimal n).map R.digit = (Nat.digits R.radix n).reverse := by
  rw [minimal, List.map_reverse,
    map_map_of_leftInverse fun d hd => R.digit_char d (Nat.digits_lt_base R.one_lt_radix hd)]

@[simp] theorem value_numeral (z n : Nat) : R.value (R.numeral z n) = n := by
  induction z with
  | zero =>
    rw [numeral, List.replicate_zero, List.nil_append, value, map_digit_minimal, List.reverse_reverse,
      Nat.ofDigits_digits]
  | succ z ih => rw [numeral_succ, value_cons_char_zero, ih]

/-- The most significant digit of a number is not 0. -/
theorem head?_minimal_ne (n : Nat) : (R.minimal n).head? ≠ some (R.char 0) := by
  intro hhead
  have hdigit := congrArg (Option.map R.digit) hhead
  rw [← List.head?_map, map_digit_minimal, List.head?_reverse, Option.map_some, digit_char_zero] at hdigit
  obtain ⟨hne, hlast⟩ := List.mem_getLast?_eq_getLast hdigit
  exact Nat.getLast_digit_ne_zero R.radix (Nat.digits_ne_nil_iff_ne_zero.mp hne) hlast.symm

@[simp] theorem leadingCount_numeral (z n : Nat) : leadingCount (R.char 0) (R.numeral z n) = z := by
  rw [numeral, leadingCount_replicate_append, (leadingCount_eq_zero_iff _ _).mpr (R.head?_minimal_ne n), Nat.add_zero]

variable {R}

/-- A sequence whose first digit is not 0 is the minimal numeral of its number. -/
theorem minimal_value_cons {c : Byte} {v : List Byte} (hv : ∀ x ∈ c :: v, R.IsChar x) (hc : c ≠ R.char 0) :
    R.minimal (R.value (c :: v)) = c :: v := by
  have hfirst : R.digit c ≠ 0 := fun h0 => hc (by rw [← h0, (hv c List.mem_cons_self).char_digit])
  have hdigits : Nat.digits R.radix (R.value (c :: v)) = ((c :: v).map R.digit).reverse :=
    Nat.digits_ofDigits _ R.one_lt_radix _ (digit_lt_of_mem hv) (by simpa using hfirst)
  rw [minimal, hdigits, List.map_reverse, List.reverse_reverse,
    map_map_of_leftInverse fun x hx => (hv x hx).char_digit]

/-- A sequence of characters is the numeral of its number with its leading zeros. -/
theorem numeral_of_value {v : List Byte} (hv : ∀ c ∈ v, R.IsChar c) :
    R.numeral (leadingCount (R.char 0) v) (R.value v) = v := by
  induction v with
  | nil => simp [numeral, minimal, value, leadingCount]
  | cons c v ih =>
    by_cases hc : c = R.char 0
    · rw [hc, leadingCount_cons_self, value_cons_char_zero, numeral_succ, ih fun x hx => hv x (List.mem_cons_of_mem _ hx)]
    · rw [leadingCount_cons_of_ne hc, numeral, List.replicate_zero, List.nil_append, minimal_value_cons hv hc]

/-- A larger radix needs no more digits. -/
theorem length_numeral_le {S : RadixCode} (h : R.radix ≤ S.radix) (z n : Nat) :
    (S.numeral z n).length ≤ (R.numeral z n).length := by
  have hdigits : (Nat.digits S.radix n).length ≤ (Nat.digits R.radix n).length :=
    (Nat.digits_length_le_iff S.one_lt_radix n).mpr
      ((Nat.lt_base_pow_length_digits R.one_lt_radix).trans_le (Nat.pow_le_pow_left h _))
  simpa [numeral, minimal] using hdigits

end RadixCode

/-! ### The two radices of the codec -/

/-- Bytes as the digits of radix 256. -/
def radix256 : RadixCode where
  radix := 256
  char := BitVec.ofNat 8
  digit := BitVec.toNat
  one_lt_radix := by decide
  digit_char _ hd := Nat.mod_eq_of_lt hd

/-- The characters of ALPHA as the digits of radix 58 (R190). -/
def radix58 : RadixCode where
  radix := 58
  char := alphaByte
  digit := alphaIndex
  one_lt_radix := by decide
  digit_char := by decide

theorem radix256_isChar (c : Byte) : radix256.IsChar c := ⟨c.toNat, c.isLt, BitVec.ofNat_toNat 8 c⟩

theorem radix58_isChar_iff (c : Byte) : radix58.IsChar c ↔ inAlpha c := by
  rw [← contains_alpha_iff, List.contains_iff_mem, List.mem_iff_getElem]
  constructor
  · rintro ⟨d, hd, rfl⟩
    exact ⟨d, hd, (List.getD_eq_getElem alpha 0 hd).symm⟩
  · rintro ⟨d, hd, rfl⟩
    exact ⟨d, hd, List.getD_eq_getElem alpha 0 hd⟩

/-- R190's table gives the digits of ALPHA. -/
theorem digit58_eq (c : Byte) : digit58 c = radix58.digit c := by
  decide +kernel +revert

theorem bytesValue_eq_value (b : List Byte) : bytesValue b = radix256.value b := bytesValue_eq b

theorem charsValue_eq_value (v : List Byte) : charsValue v = radix58.value v := by
  simp only [charsValue, digit58_eq]
  exact positionalSum_eq_ofDigits _ _ _

/-- The encoding is D's number in radix 58, its zero bytes kept: the loop of R191 has the turns it needs. -/
theorem b58enc_eq (b : List Byte) : b58enc b = radix58.numeral (leadingCount 0x00 b) (radix256.value b) := by
  have hturns : radix256.value b < 58 ^ (2 * b.length) := by
    calc radix256.value b < 256 ^ b.length := RadixCode.value_lt fun c _ => radix256_isChar c
      _ ≤ (58 ^ 2) ^ b.length := Nat.pow_le_pow_left (by decide) _
      _ = 58 ^ (2 * b.length) := (Nat.pow_mul ..).symm
  rw [RadixCode.numeral, ← radix58.map_char_digitsBE hturns, ← radix256.foldl_eq_value]
  rfl

/-- The decoding is the characters' number in radix 256, their '1's kept: the loop of R193 has the turns it needs. -/
theorem b58dec_eq {v : List Byte} (hv : ∀ c ∈ v, radix58.IsChar c) :
    b58dec v = radix256.numeral (leadingCount 0x31 v) (radix58.value v) := by
  have hturns : radix58.value v < 256 ^ v.length :=
    (RadixCode.value_lt hv).trans_le (Nat.pow_le_pow_left (by decide) _)
  rw [RadixCode.numeral, ← radix256.map_char_digitsBE hturns, ← radix58.foldl_eq_value]
  rfl

/-! ### What an encoding and a decoding keep (R191, R193) -/

theorem isChar_of_mem_b58enc (b : List Byte) : ∀ c ∈ b58enc b, radix58.IsChar c :=
  b58enc_eq b ▸ radix58.isChar_of_mem_numeral

theorem value_b58enc (b : List Byte) : radix58.value (b58enc b) = radix256.value b := by
  rw [b58enc_eq, RadixCode.value_numeral]

theorem leadingCount_b58enc (b : List Byte) : leadingCount 0x31 (b58enc b) = leadingCount 0x00 b :=
  b58enc_eq b ▸ radix58.leadingCount_numeral _ _

section
variable {v : List Byte} (hv : ∀ c ∈ v, radix58.IsChar c)
include hv

theorem value_b58dec : radix256.value (b58dec v) = radix58.value v := by
  rw [b58dec_eq hv, RadixCode.value_numeral]

theorem leadingCount_b58dec : leadingCount 0x00 (b58dec v) = leadingCount 0x31 v :=
  b58dec_eq hv ▸ radix256.leadingCount_numeral _ _

theorem length_b58dec_le : (b58dec v).length ≤ v.length := by
  have hle := RadixCode.length_numeral_le (R := radix58) (S := radix256) (by decide) (leadingCount 0x31 v)
    (radix58.value v)
  have hself : radix58.numeral (leadingCount 0x31 v) (radix58.value v) = v := RadixCode.numeral_of_value hv
  rwa [← b58dec_eq hv, hself] at hle

theorem b58enc_b58dec : b58enc (b58dec v) = v := by
  rw [b58enc_eq, value_b58dec hv, leadingCount_b58dec hv]
  exact RadixCode.numeral_of_value hv

end

theorem b58dec_b58enc (b : List Byte) : b58dec (b58enc b) = b := by
  rw [b58dec_eq (isChar_of_mem_b58enc b), value_b58enc, leadingCount_b58enc]
  exact RadixCode.numeral_of_value fun c _ => radix256_isChar c

/-! ### The laws and the commands (R192, R194 to R196) -/

/-- Settles O34: a sequence is the one numeral with its number and its leading zeros, and both directions keep them. -/
theorem b58RoundTrips : Obligations.B58RoundTrips := by
  unfold Obligations.B58RoundTrips
  simp only [← radix58_isChar_iff]
  exact ⟨fun b => ⟨isChar_of_mem_b58enc b, b58dec_b58enc b⟩, fun v hv => b58enc_b58dec hv⟩

/-- Settles O35: the encoding is that many '1' and a numeral without a leading zero digit. -/
theorem b58KeepsLeadingZeros : Obligations.B58KeepsLeadingZeros := by
  unfold Obligations.B58KeepsLeadingZeros
  intro b
  refine ⟨?_, ?_, fun h => ?_, leadingCount_b58enc b⟩
  · simp only [b58enc, List.length_append, List.length_replicate]
    omega
  · simp [b58enc]
  · rw [← leadingCount_eq_zero_iff, leadingCount_b58enc, h]

/-- Settles O26: the rule's output, and what an encoding keeps. -/
theorem b58EncodeWritesTheString : Obligations.B58EncodeWritesTheString := by
  unfold Obligations.B58EncodeWritesTheString
  intro s hs hopt hfit hlen
  obtain ⟨t, ht, hsucc, hout, hframe⟩ := exec_of_out hs (ruleOf_b58Encode hfit hopt) hlen
  refine ⟨t, ht, hsucc, hout, fun c hc => ?_, ?_, leadingCount_b58enc _, hframe⟩
  · rw [digit58_eq]
    exact (isChar_of_mem_b58enc _ c hc).digit_lt
  · rw [charsValue_eq_value, bytesValue_eq_value, value_b58enc]

/-- Settles O27: the rule's output, and what a decoding keeps. -/
theorem b58DecodeWritesTheBytes : Obligations.B58DecodeWritesTheBytes := by
  unfold Obligations.B58DecodeWritesTheBytes
  intro s hs hopt hfit halpha
  have hchars : ∀ c ∈ s.regionD, radix58.IsChar c := fun c hc => (radix58_isChar_iff c).mpr (halpha c hc)
  refine ⟨length_regionD s ▸ length_b58dec_le hchars, fun hlen => ?_⟩
  obtain ⟨t, ht, hsucc, hout, hframe⟩ := exec_of_out hs (ruleOf_b58Decode hfit hopt halpha) hlen
  refine ⟨t, ht, hsucc, hout, ?_, leadingCount_b58dec hchars, hframe⟩
  rw [bytesValue_eq_value, charsValue_eq_value, value_b58dec hchars]

end Sys2Proof.Machine
end

section
/-! PROOFS. The secp256k1 public-key unit (43_secp256k1.md): doubling and adding computes the multiple of the curve's
group (R211), so G's order is read off one evaluation (R214); what EC_PUBKEY rejects and writes (R213, R214). -/

namespace Sys2Proof.Machine

/-! ### The multiples of a point (R211) -/

section
variable [Fact (Nat.Prime fieldPrime)]

theorem represents_infinity_iff {Q : curve.Point} : Represents .infinity Q ↔ Q = 0 := Iff.rfl

theorem represents_zero_iff {P : Point} : Represents P 0 ↔ P = .infinity :=
  ⟨fun h => represents_injective h rfl, fun h => h ▸ rfl⟩

/-- The sum of `k` terms is the multiple of the curve's group. -/
theorem represents_pointSmul {P : Point} {Q : curve.Point} (h : Represents P Q) (k : Nat) :
    Represents (pointSmul k P) (k • Q) := by
  induction k with
  | zero => exact zero_nsmul Q
  | succ k ih =>
    rw [succ_nsmul]
    exact represents_pointAdd ih h

theorem pointSmul_eq_infinity_iff {P : Point} {Q : curve.Point} (h : Represents P Q) {k : Nat} :
    pointSmul k P = .infinity ↔ k • Q = 0 := by
  have hk := represents_pointSmul h k
  constructor
  · intro hinf
    rwa [hinf, represents_infinity_iff] at hk
  · intro hzero
    rwa [hzero, represents_zero_iff] at hk

/-- Doubling and adding is that multiple too, for a `k` of at most `fuel` bits: k = 2 * (k / 2) + k % 2. -/
theorem represents_pointMul {P : Point} {Q : curve.Point} (h : Represents P Q) {fuel k : Nat} (hk : k < 2 ^ fuel) :
    Represents (pointMul fuel k P) (k • Q) := by
  induction fuel generalizing k with
  | zero =>
    obtain rfl : k = 0 := by simpa using hk
    exact zero_nsmul Q
  | succ fuel ih =>
    have hhalf : k / 2 < 2 ^ fuel := by omega
    have htwice := represents_pointAdd (ih hhalf) (ih hhalf)
    rw [← add_nsmul] at htwice
    rw [pointMul]
    split
    · next hzero => rw [hzero, zero_nsmul, represents_infinity_iff]
    · split
      · next hodd =>
        have hsum := represents_pointAdd htwice h
        rwa [← succ_nsmul, show k / 2 + k / 2 + 1 = k by omega] at hsum
      · next heven => rwa [show k / 2 + k / 2 = k by omega] at htwice

end

theorem pointMul_eq_pointSmul {fuel k : Nat} {P : Point} (hP : P.onCurve = true) (hk : k < 2 ^ fuel) :
    pointMul fuel k P = pointSmul k P := by
  have : Fact (Nat.Prime fieldPrime) := ⟨fieldPrime_prime⟩
  obtain ⟨Q, hQ⟩ := represents_of_onCurve hP
  exact represents_injective (represents_pointMul hQ hk) (represents_pointSmul hQ k)

/-- Settles O36: both represent the multiple of the curve's group. -/
theorem doubleAndAddIsTheSum : Obligations.DoubleAndAddIsTheSum := by
  unfold Obligations.DoubleAndAddIsTheSum
  exact fun _ _ hq hk => pointMul_eq_pointSmul hq hk

/-! ### The order of G (R214) -/

theorem curveOrder_lt : curveOrder < 2 ^ 256 := by decide

/-- The one evaluation that the order of G rests on. -/
theorem pointMul_curveOrder_pointG : pointMul 256 curveOrder pointG = .infinity := by decide +kernel

theorem pointSmul_curveOrder_pointG : pointSmul curveOrder pointG = .infinity := by
  rw [← pointMul_eq_pointSmul pointG_onCurve curveOrder_lt, pointMul_curveOrder_pointG]

/-- The curve's point of G has order n, because n is prime (R214). -/
theorem addOrderOf_of_represents_pointG [Fact (Nat.Prime fieldPrime)] {Q : curve.Point} (hQ : Represents pointG Q) :
    addOrderOf Q = curveOrder := by
  have : Fact (Nat.Prime curveOrder) := ⟨curveOrder_prime⟩
  refine addOrderOf_eq_prime ((pointSmul_eq_infinity_iff hQ).mp pointSmul_curveOrder_pointG) ?_
  rintro rfl
  exact nomatch represents_zero_iff.mp hQ

theorem pointSmul_pointG_ne_infinity {k : Nat} (hpos : 1 ≤ k) (hlt : k < curveOrder) :
    pointSmul k pointG ≠ .infinity := by
  have : Fact (Nat.Prime fieldPrime) := ⟨fieldPrime_prime⟩
  obtain ⟨Q, hQ⟩ := represents_of_onCurve pointG_onCurve
  rw [Ne, pointSmul_eq_infinity_iff hQ]
  exact nsmul_ne_zero_of_lt_addOrderOf (by omega) (addOrderOf_of_represents_pointG hQ ▸ hlt)

/-- Settles O37: n·G = O by evaluation, and the order of G divides the prime n. -/
theorem generatorHasOrderN : Obligations.GeneratorHasOrderN := by
  unfold Obligations.GeneratorHasOrderN
  exact ⟨pointSmul_curveOrder_pointG, fun _ hpos hlt => pointSmul_pointG_ne_infinity hpos hlt⟩

/-! ### The command (R213, R214) -/

theorem beNat_eq_bytesValue (b : List Byte) : beNat b = bytesValue b := by
  rw [bytesValue_eq_value, ← radix256.foldl_eq_value]
  rfl

/-- The scalar is the number of D. -/
theorem beNat_regionD {s : State} (hsrc : s.srcLen.toNat = 32) : beNat s.regionD = s.scalar := by
  have hlen : s.regionD.length = 32 := by rw [length_regionD, hsrc]
  rw [beNat_eq_bytesValue, bytesValue, State.scalar, hlen]
  refine Finset.sum_congr rfl fun i hi => ?_
  have hi : i < s.regionD.length := hlen ▸ Finset.mem_range.mp hi
  rw [List.getD_eq_getElem _ _ hi, getElem_regionD]

theorem validScalar_iff (k : Nat) : validScalar k = true ↔ 1 ≤ k ∧ k < curveOrder := by
  rw [validScalar, Bool.and_eq_true, decide_eq_true_eq, decide_eq_true_eq]

section
variable {s : State} (hopt : s.params.hasEcmul = true) (hfit : s.regionsFit = true)
include hopt hfit

theorem ruleOf_ecPubkey_of_wrong_length (hsrc : s.srcLen.toNat ≠ 32) : ruleOf .ecPubkey s = .error .inLength := by
  rw [ruleOf, ruleEcPubkey, hopt, whenPresent_true, withRegions_of_fit hfit, length_regionD, if_pos hsrc]

theorem ruleOf_ecPubkey (hsrc : s.srcLen.toNat = 32) :
    ruleOf .ecPubkey s = if validScalar s.scalar then .ok { out := some (compress (pointMul 256 s.scalar pointG)) }
      else .error .invalidPrivateKey := by
  rw [ruleOf, ruleEcPubkey, hopt, whenPresent_true, withRegions_of_fit hfit, length_regionD, if_neg (not_not.mpr hsrc),
    beNat_regionD hsrc]

end

/-- Settles O13: the rule checks the length, then the scalar. -/
theorem ecPubkeyRejectsBadScalars : Obligations.EcPubkeyRejectsBadScalars := by
  unfold Obligations.EcPubkeyRejectsBadScalars
  refine fun s _ hopt hfit => ⟨fun hsrc => exec_of_error (ruleOf_ecPubkey_of_wrong_length hopt hfit hsrc),
    fun hsrc hbad => exec_of_error ?_⟩
  have hinvalid : ¬ validScalar s.scalar = true := by
    rw [validScalar_iff]
    omega
  rw [ruleOf_ecPubkey hopt hfit hsrc, if_neg hinvalid]

/-- A compressed point is 33 bytes (R212). -/
theorem length_compress_affine (x y : Nat) : (compress (.affine x y)).length = 33 := by
  simp [compress, beBytes]

/-- Settles O28: the rule's output, and that no valid multiple of G is O. -/
theorem ecPubkeyWritesTheCompressedMultiple : Obligations.EcPubkeyWritesTheCompressedMultiple := by
  unfold Obligations.EcPubkeyWritesTheCompressedMultiple
  intro s hs hopt hfit hsrc hpos hlt
  obtain ⟨x, y, hxy⟩ : ∃ x y, pointSmul s.scalar pointG = .affine x y := by
    cases h : pointSmul s.scalar pointG with
    | infinity => exact absurd h (pointSmul_pointG_ne_infinity hpos hlt)
    | affine x y => exact ⟨x, y, rfl⟩
  have hrule : ruleOf .ecPubkey s = .ok { out := some (compress (.affine x y)) } := by
    rw [ruleOf_ecPubkey hopt hfit hsrc, if_pos ((validScalar_iff _).mpr ⟨hpos, hlt⟩),
      pointMul_eq_pointSmul pointG_onCurve (hlt.trans curveOrder_lt), hxy]
  have hsize := obufSize_ge_of_legal hs.legal
  obtain ⟨t, ht, hsucc, hout, hframe⟩ := exec_of_out hs hrule (by rw [length_compress_affine]; omega)
  have hdst : t.dstLen = 33 :=
    BitVec.eq_of_toNat_eq (by rw [hout.toNat_dstLen, length_compress_affine]; rfl)
  exact ⟨t, x, y, ht, hsucc, hxy, hout, hdst, hframe⟩

end Sys2Proof.Machine
end

section
/-! PROOFS. The control commands (44_control.md): NOP changes STATUS alone (R240), ZEROIZE zeroizes the block, and
what a zeroized block reads as, CTRL and STATUS apart, depends on its parameters alone (R241). -/

namespace Sys2Proof.Machine

/-! ### How the two commands end (R240, R241) -/

theorem exec_nop (s : State) :
    exec .nop s = .next { s with status := s.status.completed, pending := false } :=
  exec_commits (r := {}) rfl (Nat.zero_le _)

theorem exec_zeroize (s : State) :
    exec .zeroize s = .next { s.zeroizeEffects with status := s.status.completed, pending := false } :=
  exec_commits (r := { zeroize := true }) rfl (Nat.zero_le _)

/-- Settles O14: the result's fields are all absent, so its commit writes nothing. -/
theorem nopTouchesOnlyStatus : Obligations.NopTouchesOnlyStatus := by
  unfold Obligations.NopTouchesOnlyStatus
  exact fun s hs => ⟨_, exec_nop s, ⟨rfl, hs.status_completed⟩, rfl⟩

/-! ### A zeroized block (R241) -/

/-- Every operand and result is as `ZeroizeEffects()` leaves it (44_control.md R241). -/
structure State.Zeroized (s : State) : Prop where
  inBuf : ∀ i < s.params.ibufSize, s.inBuf.byte i = 0
  outBuf : ∀ i < s.params.obufSize, s.outBuf.byte i = 0
  hrpLen : s.hrpLen = 0
  srcLen : s.srcLen = 0
  dstLen : s.dstLen = 0
  chk : s.chk = 1
  cksum : s.cksum = 0

/-- The completion of ZEROIZE writes nothing but STATUS after the effects. -/
theorem State.zeroized_zeroizeEffects (s : State) (st : Status) (busy : Bool) :
    State.Zeroized { s.zeroizeEffects with status := st, pending := busy } :=
  ⟨fun _ hi => Memory.byte_zeros _ hi, fun _ hi => Memory.byte_zeros _ hi, rfl, rfl, rfl, rfl, rfl⟩

/-- Settles O29: the completion is the effects of R241 and STATUS, which write no other field. -/
theorem zeroizeClearsOperandsAndResults : Obligations.ZeroizeClearsOperandsAndResults := by
  unfold Obligations.ZeroizeClearsOperandsAndResults
  intro s hs
  obtain ⟨hin, hout, hhrp, hsrc, hdst, hchk, hcksum⟩ := s.zeroized_zeroizeEffects s.status.completed false
  exact ⟨_, exec_zeroize s, ⟨rfl, hs.status_completed⟩, hin, hout, hhrp, hsrc, hdst, hchk, hcksum, rfl⟩

/-! ### What a zeroized block reads as (20_memory.md R64) -/

theorem State.outBufIndex_eq_some {s : State} {o j : Nat} (h : s.outBufIndex o = some j) :
    o = 0x2000 + j ∧ j < s.params.obufSize := by
  obtain ⟨⟨hge, -, hlt⟩, hj⟩ := Option.ite_none_right_eq_some.mp h
  have hj := Option.some.inj hj
  simp only [outBufOffset] at hge hlt hj
  omega

/-- An aligned word of the OUT_BUF window that starts in the buffer ends in it, its size being a multiple of 4. -/
theorem State.outBufIndex_word_fits {s : State} {o j : Nat} (hs : s.params.legal = true) (ho : o % 4 = 0)
    (hj : s.outBufIndex o = some j) : j + 4 ≤ s.params.obufSize := by
  simp only [Params.legal, legalBufSize, Bool.and_eq_true, beq_iff_eq] at hs
  have ⟨hoff, hlt⟩ := State.outBufIndex_eq_some hj
  omega

theorem Memory.leWordAt_of_zero {m : Memory} {n j : Nat} (h : ∀ i < n, m.byte i = 0) (hj : j + 4 ≤ n) :
    m.leWordAt j = 0 := by
  rw [Memory.leWordAt, h j (by omega), h (j + 1) (by omega), h (j + 2) (by omega), h (j + 3) (by omega)]
  rfl

namespace State.Zeroized

/-- An aligned word of the windows lies wholly inside a zero buffer, or names no byte of one and reads 0 anyway. -/
theorem windowWord_eq_zero {s : State} (h : s.Zeroized) (hs : s.params.legal = true) {o : Nat} (ho : o % 4 = 0) :
    s.windowWord o = 0 := by
  unfold State.windowWord
  split
  next j hj => exact Memory.leWordAt_of_zero h.inBuf (State.inBufIndex_word_fits hs ho hj)
  next =>
    split
    next j hj => exact Memory.leWordAt_of_zero h.outBuf (State.outBufIndex_word_fits hs ho hj)
    next => rfl

/-- Two zeroized blocks of the same parameters differ for a reader in CTRL and STATUS at most. -/
theorem readWord_eq {t w : State} (ht : t.Zeroized) (hw : w.Zeroized) (hlegal : w.params.legal = true)
    (hp : t.params = w.params) {o : Nat} (ho : o % 4 = 0) (hctrl : o ≠ 0x00C) (hstatus : o ≠ 0x010) :
    t.readWord o = w.readWord o := by
  have hwindow : t.windowWord o = w.windowWord o := by
    rw [ht.windowWord_eq_zero (hp ▸ hlegal) ho, hw.windowWord_eq_zero hlegal ho]
  simp only [State.readWord, State.capsWord, State.bufszWord, hp, ht.hrpLen, hw.hrpLen, ht.srcLen, hw.srcLen,
    ht.dstLen, hw.dstLen, ht.chk, hw.chk, ht.cksum, hw.cksum, hwindow]
  split
  case h_4 => exact absurd rfl hctrl
  case h_5 => exact absurd rfl hstatus
  all_goals rfl

end State.Zeroized

/-- Settles O58: both completions are zeroized, and the command leaves the parameters. -/
theorem zeroizeLeavesNoSecret : Obligations.ZeroizeLeavesNoSecret := by
  unfold Obligations.ZeroizeLeavesNoSecret
  intro s u t w _ hu hp ht hw o ho hctrl hstatus
  rw [exec_zeroize] at ht hw
  cases ht
  cases hw
  exact (s.zeroized_zeroizeEffects _ _).readWord_eq (u.zeroized_zeroizeEffects _ _) hu.legal hp ho hctrl hstatus

end Sys2Proof.Machine
end

section
/-! PROOFS. The errors of a command (60_exceptions.md): an error completion is precise (R262), and of the errors that
apply the first in the rule's order is reported (R263). -/

namespace Sys2Proof.Machine

/-! ### Precise errors (R262) -/

theorem State.inFlight.pending {s : State} (h : s.inFlight) : s.pending = true := by
  obtain ⟨-, hp⟩ := h
  exact hp

/-- LASTOP shows the latched word's opcode (10_state.md R36). -/
theorem State.inFlight.lastop {s : State} (h : s.inFlight) : s.status.lastop = s.cmd.extractLsb' 0 8 := by
  obtain ⟨hinv, -⟩ := h
  obtain ⟨-, hstatus, -⟩ := s.inv_iff.mp hinv
  obtain ⟨-, -, -, hop⟩ := s.statusWf_iff.mp hstatus
  exact hop

theorem failed.lastop {s t : State} {e : CmdError} (h : failed s t e) : t.status.lastop = s.status.lastop := by
  rw [h]

/-- Settles O8: ERR is clear while a command is pending, and of the completions only the error completion sets it. -/
theorem errorsArePrecise : Obligations.ErrorsArePrecise := by
  unfold Obligations.ErrorsArePrecise
  refine ⟨fun s t hs h herr => ?_, fun i s e _ h => exec_of_misfit h⟩
  obtain ⟨res, hcomplete⟩ := engineStep_of_pending hs.pending
  cases hcomplete.symm.trans h
  rcases complete_cases s res with ⟨e, -, he⟩ | ⟨r, -, -, hr⟩
  · have hfailed : failed s (s.complete res) e := he ▸ completeError_failed s e
    exact ⟨hfailed.lastop.trans hs.lastop, e, hfailed⟩
  · rw [hr] at herr
    obtain ⟨-, hclear, -⟩ := hs.outcome_cleared
    exact absurd (hclear.symm.trans herr) Bool.false_ne_true

/-! ### The order of the errors (R263) -/

/-- The decoder gives only commands that the block implements (30_encoding.md R93). -/
theorem wf_of_decode {p : Params} {w : Word} {i : Instr} (h : decode p w = .ok i) : i.wf p = true := by
  unfold decode at h
  split at h
  next => nomatch h
  next j _ =>
    split at h
    next => nomatch h
    next hpresent =>
      split at h
      next => nomatch h
      next =>
        cases h
        simpa using hpresent

theorem failed.errcode {s t : State} {e : CmdError} (h : failed s t e) : t.status.errcode = e.code := by
  rw [h]

theorem succeeded.errcode {s t : State} (h : succeeded s t) : t.status.errcode = 0 := by
  obtain ⟨-, hstatus⟩ := h
  rw [hstatus]

/-- A word that the decoder rejects leaves the code of the decoder's error. -/
theorem errcode_of_rejected {s t : State} {e : DecodeError} (hs : s.inFlight) (h : engineStep s = .next t)
    (hdec : decode s.params s.cmd = .error e) : t.status.errcode = (decodeErrorToCmd e).code := by
  cases (engineStep_of_rejected hs.pending hdec).symm.trans h
  rfl

/-- A command leads to one state: what is shown of its completion holds of every one. -/
theorem errcode_of_failed {i : Instr} {s t : State} {e : CmdError} (h : exec i s = .next t)
    (hu : ∃ u, exec i s = .next u ∧ failed s u e) : t.status.errcode = e.code := by
  obtain ⟨u, hu, hfailed⟩ := hu
  cases hu.symm.trans h
  exact hfailed.errcode

/-- Past the errors of its rule, a command's code depends on the length of the result alone (30_encoding.md R98). -/
theorem errcode_of_rule_ok {i : Instr} {s t : State} {r : Result} (hs : s.inFlight) (h : exec i s = .next t)
    (hrule : ruleOf i s = .ok r) :
    t.status.errcode = if s.params.obufSize < (r.out.getD []).length then 6 else 0 := by
  split
  next hlong => exact errcode_of_failed h (exec_of_long hrule hlong)
  next hfits =>
    obtain ⟨u, hu, hsucceeded⟩ := exec_of_fitting hs hrule (Nat.not_lt.mp hfits)
    cases hu.symm.trans h
    exact hsucceeded.errcode

/-- Settles O9: the decoder checks before the rule runs, the rule checks the regions, then their values, and a result
it gives is left to the output check. -/
theorem errorsFollowTheirOrder : Obligations.ErrorsFollowTheirOrder := by
  unfold Obligations.ErrorsFollowTheirOrder
  intro s t hs h
  refine ⟨fun hill => errcode_of_rejected hs h (decode_of_illegal hill),
    fun hlegal hres => errcode_of_rejected hs h (decode_of_reserved hlegal hres), fun i hdec => ?_⟩
  have hexec : exec i s = .next t := (engineStep_of_command hs.pending hdec).symm.trans h
  have hwf := wf_of_decode hdec
  refine ⟨fun hreads hover => errcode_of_failed hexec (exec_of_error (ruleOf_of_overlong hwf hreads hover)),
    fun _ hfit => ?_, fun r => errcode_of_rule_ok hs hexec⟩
  obtain ⟨hsymbols, halphabet⟩ := badValuesGiveBadSymbol s hs hfit
  refine ⟨?_, fun hi hbad => ?_, ?_, ?_⟩
  · rintro rfl hsrc
    obtain ⟨hlength, -⟩ := ecPubkeyRejectsBadScalars s hs hwf hfit
    exact errcode_of_failed hexec (hlength hsrc)
  · obtain ⟨hmap, hrepack, hencode⟩ := hsymbols (by simpa [State.dataIsSymbols] using hbad)
    rcases hi with rfl | rfl | rfl
    · exact errcode_of_failed hexec hmap
    · exact errcode_of_failed hexec hrepack
    · exact errcode_of_failed hexec hencode
  · rintro rfl hbad
    exact errcode_of_failed hexec (halphabet hwf hbad)
  · rintro rfl hsrc hbad
    obtain ⟨-, hscalar⟩ := ecPubkeyRejectsBadScalars s hs hwf hfit
    exact errcode_of_failed hexec (hscalar hsrc hbad)

end Sys2Proof.Machine
end

section
/-! PROOFS. Resets and hazards (70_reset_and_hazards.md): what the two resets leave (R300, R301), which host writes a
pending command drops (R310), and which reads it makes free (R311). -/

namespace Sys2Proof.Machine

/-! ### Reads while a command is pending (R311) -/

theorem outBufIndex_isSome_iff (s : State) (o : Nat) :
    (s.outBufIndex o).isSome = true ↔ 0x2000 ≤ o ∧ o < 0x3000 ∧ o - 0x2000 < s.params.obufSize :=
  Option.isSome_ite

theorem isResultOffset_iff (s : State) (o : Nat) :
    s.isResultOffset o = true ↔
      o = 0x020 ∨ o = 0x024 ∨ o = 0x028 ∨ (0x2000 ≤ o ∧ o < 0x3000 ∧ o - 0x2000 < s.params.obufSize) := by
  simp only [State.isResultOffset, Bool.or_eq_true, beq_iff_eq, outBufIndex_isSome_iff, or_assoc]

theorem busRead_of_free {s : State} {o : Nat} (hp : s.pending = true) (ho : s.isResultOffset o = true) :
    s.busRead o = s.drawWord := by
  simp [State.busRead, hp, ho]

theorem busRead_of_exact {s : State} {o : Nat} (h : s.pending = false ∨ ¬ s.isResultOffset o = true) :
    s.busRead o = (s.readWord o, s) := by
  have hcond : ¬ (s.pending && s.isResultOffset o) = true := by
    rcases h with h | h <;> simp [h]
  exact if_neg hcond

/-- Settles O41: a read draws a free word exactly while a command is pending and the offset is a result's. -/
theorem resultReadsWhilePendingAreFree : Obligations.ResultReadsWhilePendingAreFree := by
  unfold Obligations.ResultReadsWhilePendingAreFree
  intro s o
  rw [← isResultOffset_iff]
  exact ⟨busRead_of_free, busRead_of_exact⟩

/-! ### The registers after a reset (10_state.md R40) -/

/-- The registers and the hidden command state have the values of the reset table. -/
structure State.AtResetTable (s : State) : Prop where
  pending : s.pending = false
  cmd : s.cmd = 0
  irqEn : s.irqEn = false
  status : s.status = Status.cleared
  hrpLen : s.hrpLen = 0
  srcLen : s.srcLen = 0
  dstLen : s.dstLen = 0
  chk : s.chk = 1
  cksum : s.cksum = 0

/-- Whatever a reset makes of the buffers, the draws and the port, the registers are at the table. -/
theorem State.resetRegisters_atResetTable (s : State) (inBuf outBuf : Memory) (draws : Nat)
    (resp : Option BusResponse) :
    State.AtResetTable { s.resetRegisters with inBuf := inBuf, outBuf := outBuf, draws := draws, resp := resp } :=
  ⟨rfl, rfl, rfl, rfl, rfl, rfl, rfl, rfl, rfl⟩

theorem State.AtResetTable.statusWord {s : State} (h : s.AtResetTable) : s.statusWord = 0 := by
  rw [State.statusWord, h.status, h.pending]
  rfl

theorem State.AtResetTable.ctrlWord {s : State} (h : s.AtResetTable) : s.ctrlWord = 0 := by
  rw [State.ctrlWord, h.irqEn]
  rfl

/-- The host reads the table's values. -/
theorem State.AtResetTable.readWord {s : State} (h : s.AtResetTable) :
    s.readWord 0x00C = 0 ∧ s.readWord 0x010 = 0 ∧ s.readWord 0x018 = 0 ∧ s.readWord 0x01C = 0 ∧
      s.readWord 0x020 = 0 ∧ s.readWord 0x024 = 1 ∧ s.readWord 0x028 = 0 := by
  simp only [State.readWord, h.ctrlWord, h.statusWord, h.hrpLen, h.srcLen, h.dstLen, h.chk, h.cksum]
  decide

theorem State.AtResetTable.irq {s : State} (h : s.AtResetTable) : s.irq = false := by
  rw [State.irq, h.irqEn, Bool.false_and]

/-! ### The soft reset (R301) -/

theorem writeCtrl_of_srst {s : State} {v : Word} (hv : v.getLsbD 1 = true) : s.writeCtrl v = s.softReset := if_pos hv

theorem softReset_of_idle {s : State} (h : s.pending = false) : s.softReset = s.resetRegisters := by
  simp [State.softReset, h]

theorem softReset_of_pending {s : State} (h : s.pending = true) : s.softReset = s.abandon.resetRegisters := if_pos h

/-- A soft reset differs from the reset of the registers in the buffers and the count of draws at most. -/
theorem softReset_frame (s : State) :
    s.softReset = { s.resetRegisters with
      inBuf := s.softReset.inBuf, outBuf := s.softReset.outBuf, draws := s.softReset.draws } := by
  unfold State.softReset
  split <;> rfl

theorem softReset_atResetTable (s : State) : s.softReset.AtResetTable := by
  rw [softReset_frame]
  exact s.resetRegisters_atResetTable _ _ _ s.resp

/-- Settles O48: the registers do not depend on what was pending; the buffers stay when nothing was, and are those of
the abandoned command else. -/
theorem softResetRestoresTheTable : Obligations.SoftResetRestoresTheTable := by
  unfold Obligations.SoftResetRestoresTheTable
  intro s v hv
  have htable := softReset_atResetTable s
  refine ⟨s.softReset, writeCtrl_of_srst hv, htable.pending, htable.cmd, htable.irqEn, htable.statusWord,
    htable.hrpLen, htable.srcLen, htable.dstLen, htable.chk, htable.cksum, ?_, ?_, ?_, ?_, fun hidle => ?_,
    fun hpend => ?_⟩
  iterate 4
    · rw [softReset_frame]
      rfl
  · rw [softReset_of_idle hidle]
    exact ⟨rfl, rfl⟩
  · rw [softReset_of_pending hpend]
    exact ⟨Memory.byte_unspecified _, fun hop => if_neg hop, fun hop i => by simp [hop]⟩

/-! ### The power-on reset (R300) -/

theorem powerOn_atResetTable (s : State) : s.powerOn.AtResetTable := s.resetRegisters_atResetTable _ _ _ none

theorem step_of_powerOn {s : State} (h : s.mover = .powerOn) : step s = .next s.takeTurn.powerOn := by
  unfold step machineStep
  rw [h]

/-- Settles O49: the registers read the values of the table, and each buffer is unspecified under a draw of its own. -/
theorem powerOnResetRestoresTheTable : Obligations.PowerOnResetRestoresTheTable := by
  unfold Obligations.PowerOnResetRestoresTheTable
  intro s hm
  have htable := powerOn_atResetTable s.takeTurn
  obtain ⟨hctrl, hstatus, hhrp, hsrc, hdst, hchk, hcksum⟩ := htable.readWord
  exact ⟨_, step_of_powerOn hm, htable.pending, htable.cmd, hctrl, hstatus, hhrp, hsrc, hdst, hchk, hcksum,
    htable.irq, rfl, Memory.byte_unspecified _, Memory.byte_unspecified _⟩

/-! ### Writes while a command is pending (R310) -/

theorem interlocked_of_pending {s : State} (h : s.pending = true) (t : State) :
    s.interlocked t = { s with status := s.status.overrun } := if_pos h

/-- A write of IN_BUF is dropped like one of an operand register. -/
theorem busWrite_inBuf_of_pending {s : State} {o j : Nat} (hp : s.pending = true) (hj : s.inBufIndex o = some j)
    (v : Word) : s.busWrite o v = { s with status := s.status.overrun } := by
  obtain ⟨ho, -⟩ := State.inBufIndex_eq_some hj
  rw [busWrite_beyond_registers s (by omega), State.writeWindow, hj]
  exact interlocked_of_pending hp _

/-- Settles O43: the writes of CMD, the operand registers and IN_BUF go through the interlock, those of CTRL and STATUS
do not. -/
theorem writesWhilePendingAreDropped : Obligations.WritesWhilePendingAreDropped := by
  unfold Obligations.WritesWhilePendingAreDropped
  intro s o v hp
  refine ⟨?_, fun hv => ?_, fun hv => ?_, fun hv => ?_⟩
  · rintro (rfl | rfl | rfl | rfl | hin)
    iterate 4 · exact interlocked_of_pending hp _
    · exact busWrite_inBuf_of_pending hp (if_pos hin) v
  · rw [busWrite_ctrlOffset, writeCtrl_of_no_srst hv]
  · rw [busWrite_ctrlOffset, writeCtrl_of_srst hv]
    exact (softReset_atResetTable s).pending
  · rw [busWrite_statusOffset, State.writeStatus_status, Status.w1c, hv, Bool.not_true, Bool.and_false]

end Sys2Proof.Machine
end
